-- ==== Sys2Proof/Word.lean ====
section
/-! DEFINITION. The word types of the CORE: bytes, command and response words, checksums, timeouts (rules R11, R80). -/

namespace Sys2Proof

/-- One logical byte, wire byte or buffer byte (rules R13, R80). -/
abbrev Byte := BitVec 8

/-- One 32-bit command word `W` or response word `Rsp` (rules R110, R120). -/
abbrev Word := BitVec 32

/-- The width of the `CRC` register (rule R31). -/
abbrev Crc := BitVec 16

/-- The width of the `TIMEOUT` register, in milliseconds (rule R33). -/
abbrev Millis := BitVec 24

end Sys2Proof
end

