-- ==== Sys2Proof/Config.lean ====
section
/-! DEFINITION. The implementation parameters of rule R8: the three OPEN byte values of a model instance, and the
constants the spec fixes. -/

namespace Sys2Proof

/-- The OPEN parameters of one model instance (rule R8, decisions D5 and D6).
The spec gives no value for any of them, so every claim is made for every `Config`. -/
structure Config where
  /-- `STX`, the start-of-frame marker. -/
  stx : Byte
  /-- `ESC`, the escape marker. -/
  esc : Byte
  /-- `NAK`, the negative-acknowledgement sentinel: any byte. -/
  nak : Byte
  deriving DecidableEq, Repr

/-- The test configuration `EXCFG` of decision D36.
DESIGN CHOICE (log 1): these are not the device's values, which are OPEN. -/
def Config.excfg : Config := { stx := 0x7E, esc := 0x7D, nak := 0x15 }

/-- `POLY` of rule R8. -/
abbrev Config.poly : Crc := 0x8005

/-- `CRC_INIT_VALUE` of rule R8. -/
abbrev Config.crcInitValue : Crc := 0xFFFF

/-- `ESC_MASK` of rule R8. -/
abbrev Config.escMask : Byte := 0x80

/-- `NAK_INDEX` of rule R8, counted from 0. -/
abbrev Config.nakIndex : Nat := 3

/-- `NAK_MIN_LEN` of rule R8. -/
abbrev Config.nakMinLen : Nat := 4

/-- `LEN_HI_VALUE` of rule R8. -/
abbrev Config.lenHiValue : Byte := 0x00

/-- `PBUF_SIZE` of rule R8: the largest parameter count. -/
abbrev Config.pbufSize : Nat := 254

/-- `RBUF_SIZE` of rule R8: the largest response length. -/
abbrev Config.rbufSize : Nat := 255

/-- `TIMEOUT_DEFAULT` of rule R8, in milliseconds. -/
abbrev Config.timeoutDefault : Millis := 1000

end Sys2Proof
end

