-- ==== Sys2Proof/Syntax.lean ====
section
/-! DEFINITION. The host commands of the CORE: one constructor per row of spec/opcode_table.json (rule R113). -/

namespace Sys2Proof

/-- A host command with its operands, as rule R113 lists them. Every operand is as wide as its field of the
command word (rule R111): none is signed, scaled or shifted, and there are no register operands. -/
inductive Instr where
  /-- `CRC_INIT` (rule R152). -/
  | crcInit
  /-- `CRC_UPDATE b` (rule R153). -/
  | crcUpdate (b : Byte)
  /-- `CRC_READ` (rule R154). -/
  | crcRead
  /-- `STUFF b` (rule R171). -/
  | stuff (b : Byte)
  /-- `UNSTUFF_RESET` (rule R175). -/
  | unstuffReset
  /-- `UNSTUFF w` (rule R177). -/
  | unstuff (w : Byte)
  /-- `PLOAD idx, v` (rule R201). -/
  | pload (idx v : Byte)
  /-- `SEND cmd, n` (rule R206). -/
  | send (cmd n : Byte)
  /-- `RECV len` (rule R242). -/
  | recv (len : Byte)
  /-- `RREAD idx` (rule R247). -/
  | rread (idx : Byte)
  /-- `STATUS_READ` (rule R270). -/
  | statusRead
  /-- `SET_TIMEOUT ms` (rule R272). -/
  | setTimeout (ms : Millis)
  /-- `TIMEOUT_READ` (rule R274). -/
  | timeoutRead
  deriving DecidableEq, Repr

end Sys2Proof
end

