-- ==== Sys2Proof/WellFormed.lean ====
section
/-! DEFINITION. What a well-formed model instance is (rule R9), and which commands keep their operands inside the
ranges of rule R113's operand columns. -/

namespace Sys2Proof

/-- Rule R9: a model instance is well formed only if `STX < 0x80`, `ESC < 0x80` and `STX != ESC`.
The step refuses an instance that is not (rule R310). -/
def Config.wf (c : Config) : Bool :=
  decide (c.stx.toNat < 0x80) && decide (c.esc.toNat < 0x80) && (c.stx != c.esc)

/-- The operand ranges of rule R113's columns. Each operand is exactly as wide as its field, so every command can be
encoded; the one range narrower than its field is PLOAD's `index (0..253)`. A PLOAD outside it is still a command with
a meaning: it faults `INDEX_RANGE` (rule R201). -/
def Instr.wf : Instr → Bool
  | .crcInit => true
  | .crcUpdate _ => true
  | .crcRead => true
  | .stuff _ => true
  | .unstuffReset => true
  | .unstuff _ => true
  | .pload idx _ => decide (idx.toNat < Config.pbufSize)
  | .send _ _ => true
  | .recv _ => true
  | .rread _ => true
  | .statusRead => true
  | .setTimeout _ => true
  | .timeoutRead => true

end Sys2Proof
end

