-- ==== Sys2Proof/Decode.lean ====
section
/-! DEFINITION. The command word of 30_encoding.md: its fields, the decoder (total on any word, refusing by name), the
encoder, and the rows of spec/opcode_table.json. -/

namespace Sys2Proof

/-- Why a command word selects no command: case 3 and case 4 of rule R114. -/
inductive DecodeError where
  /-- `OP` is not listed in rule R113. -/
  | illegalOpcode
  /-- `OP` is listed and a must-be-0 field is not zero (rule R112). -/
  | reservedNonzero
  deriving DecidableEq, Repr

/-- The thirteen operation codes of rule R113, by mnemonic. -/
inductive Opcode where
  | crcInit | crcUpdate | crcRead | stuff | unstuffReset | unstuff | pload | send | recv | rread
  | statusRead | setTimeout | timeoutRead
  deriving DecidableEq, Repr

/-- `OP = W[31:24]` (rule R110). -/
def fieldOp (w : Word) : Byte := w.extractLsb' 24 8

/-- `A = W[23:16]` (rules R110, R111). -/
def fieldA (w : Word) : Byte := w.extractLsb' 16 8

/-- `B = W[15:8]` (rules R110, R111). -/
def fieldB (w : Word) : Byte := w.extractLsb' 8 8

/-- `C = W[7:0]` (rule R110). -/
def fieldC (w : Word) : Byte := w.extractLsb' 0 8

/-- `T = W[23:0]`, the one operand that spans `A`, `B` and `C` (rules R110, R111). -/
def fieldT (w : Word) : Millis := w.extractLsb' 0 24

/-- A command word from its four fields: `W = OP<<24 | A<<16 | B<<8 | C` (rule R130). -/
def packWord (op a b c : Byte) : Word := op ++ a ++ b ++ c

/-- A command word from its operation code and the 24-bit operand: `W = 0x51<<24 | ms` (rule R130). -/
def packWordT (op : Byte) (t : Millis) : Word := op ++ t

/-- The value of the `OP` field for each mnemonic (rule R113). -/
def opcodeByte : Opcode → Byte
  | .crcInit => 0x01
  | .crcUpdate => 0x02
  | .crcRead => 0x03
  | .stuff => 0x10
  | .unstuffReset => 0x20
  | .unstuff => 0x21
  | .pload => 0x30
  | .send => 0x31
  | .recv => 0x40
  | .rread => 0x41
  | .statusRead => 0x50
  | .setTimeout => 0x51
  | .timeoutRead => 0x52

/-- All operation codes, in the order of rule R113. -/
def opcodeList : List Opcode :=
  [.crcInit, .crcUpdate, .crcRead, .stuff, .unstuffReset, .unstuff, .pload, .send, .recv, .rread,
   .statusRead, .setTimeout, .timeoutRead]

/-- The mnemonic an `OP` value selects; `none` for the illegal values of rule R113. -/
def opcodeOfByte (op : Byte) : Option Opcode := opcodeList.find? fun o => opcodeByte o == op

/-- Rule R113, column `A`: whether the field is an operand (true) or must be 0 (false). -/
def usesA : Opcode → Bool
  | .crcInit => false
  | .crcUpdate => true
  | .crcRead => false
  | .stuff => true
  | .unstuffReset => false
  | .unstuff => true
  | .pload => true
  | .send => true
  | .recv => true
  | .rread => true
  | .statusRead => false
  | .setTimeout => true
  | .timeoutRead => false

/-- Rule R113, column `B`: whether the field is an operand (true) or must be 0 (false). -/
def usesB : Opcode → Bool
  | .crcInit => false
  | .crcUpdate => false
  | .crcRead => false
  | .stuff => false
  | .unstuffReset => false
  | .unstuff => false
  | .pload => true
  | .send => true
  | .recv => false
  | .rread => false
  | .statusRead => false
  | .setTimeout => true
  | .timeoutRead => false

/-- Rule R113, column `C`, and rule R110: only SET_TIMEOUT uses the field. -/
def usesC : Opcode → Bool
  | .crcInit => false
  | .crcUpdate => false
  | .crcRead => false
  | .stuff => false
  | .unstuffReset => false
  | .unstuff => false
  | .pload => false
  | .send => false
  | .recv => false
  | .rread => false
  | .statusRead => false
  | .setTimeout => true
  | .timeoutRead => false

/-- Every must-be-0 field of the command is zero (rule R112). -/
def reservedZero (o : Opcode) (w : Word) : Bool :=
  (usesA o || fieldA w == 0) && (usesB o || fieldB w == 0) && (usesC o || fieldC w == 0)

/-- The command an operation code and a word's operand fields make (rules R111, R113). -/
def buildInstr (o : Opcode) (w : Word) : Instr :=
  match o with
  | .crcInit => .crcInit
  | .crcUpdate => .crcUpdate (fieldA w)
  | .crcRead => .crcRead
  | .stuff => .stuff (fieldA w)
  | .unstuffReset => .unstuffReset
  | .unstuff => .unstuff (fieldA w)
  | .pload => .pload (fieldA w) (fieldB w)
  | .send => .send (fieldA w) (fieldB w)
  | .recv => .recv (fieldA w)
  | .rread => .rread (fieldA w)
  | .statusRead => .statusRead
  | .setTimeout => .setTimeout (fieldT w)
  | .timeoutRead => .timeoutRead

/-- The decoder: cases 3 and 4 of rule R114, in that order, then the row of rule R113. Total on any word (rule R115:
each encoding selects one row with its must-be-0 fields zero, or faults). -/
def decode (w : Word) : Except DecodeError Instr :=
  match opcodeOfByte (fieldOp w) with
  | none => .error .illegalOpcode
  | some o => if reservedZero o w then .ok (buildInstr o w) else .error .reservedNonzero

/-- The operation code of a command. -/
def opcodeOf : Instr → Opcode
  | .crcInit => .crcInit
  | .crcUpdate _ => .crcUpdate
  | .crcRead => .crcRead
  | .stuff _ => .stuff
  | .unstuffReset => .unstuffReset
  | .unstuff _ => .unstuff
  | .pload _ _ => .pload
  | .send _ _ => .send
  | .recv _ => .recv
  | .rread _ => .rread
  | .statusRead => .statusRead
  | .setTimeout _ => .setTimeout
  | .timeoutRead => .timeoutRead

/-- The encoder: the command word of a command, operands in the order of rule R113's columns (rule R130). -/
def encode : Instr → Word
  | .crcInit => packWord 0x01 0 0 0
  | .crcUpdate b => packWord 0x02 b 0 0
  | .crcRead => packWord 0x03 0 0 0
  | .stuff b => packWord 0x10 b 0 0
  | .unstuffReset => packWord 0x20 0 0 0
  | .unstuff w => packWord 0x21 w 0 0
  | .pload idx v => packWord 0x30 idx v 0
  | .send cmd n => packWord 0x31 cmd n 0
  | .recv len => packWord 0x40 len 0 0
  | .rread idx => packWord 0x41 idx 0 0
  | .statusRead => packWord 0x50 0 0 0
  | .setTimeout ms => packWordT 0x51 ms
  | .timeoutRead => packWord 0x52 0 0 0

/-- `match` of each row of spec/opcode_table.json. The decoder does not use it: it stands here to be compared. -/
def tableMatch : Opcode → Word
  | .crcInit => 0x01000000
  | .crcUpdate => 0x02000000
  | .crcRead => 0x03000000
  | .stuff => 0x10000000
  | .unstuffReset => 0x20000000
  | .unstuff => 0x21000000
  | .pload => 0x30000000
  | .send => 0x31000000
  | .recv => 0x40000000
  | .rread => 0x41000000
  | .statusRead => 0x50000000
  | .setTimeout => 0x51000000
  | .timeoutRead => 0x52000000

/-- `mask` of each row of spec/opcode_table.json. The decoder does not use it: it stands here to be compared. -/
def tableMask : Opcode → Word
  | .crcInit => 0xFFFFFFFF
  | .crcUpdate => 0xFF00FFFF
  | .crcRead => 0xFFFFFFFF
  | .stuff => 0xFF00FFFF
  | .unstuffReset => 0xFFFFFFFF
  | .unstuff => 0xFF00FFFF
  | .pload => 0xFF0000FF
  | .send => 0xFF0000FF
  | .recv => 0xFF00FFFF
  | .rread => 0xFF00FFFF
  | .statusRead => 0xFFFFFFFF
  | .setTimeout => 0xFF000000
  | .timeoutRead => 0xFFFFFFFF

/-- The host's question about a table row's word: what the decoder reads from an instruction whose bits are `w`. Every
command word is exactly 32 bits (rule R132); bits above `nbits` are 0. -/
def decodeTableWord (nbits w : Nat) : Option Instr :=
  if nbits ≤ 32 ∧ w < 2 ^ nbits then
    match decode (BitVec.ofNat 32 w) with
    | .ok i => some i
    | .error _ => none
  else none

end Sys2Proof
end

