-- ==== Sys2Proof/Machine/State.lean ====
section
/-! DEFINITION. The state of the CORE (rule R30), with the environment's inputs and the log of outputs beside it, and
the state after reset (rule R49). -/

namespace Sys2Proof.Machine

/-- The fault codes of rule R293 (0, no fault, is `none` in `State.fault`; 7 to 255 are reserved and never raised). -/
inductive FaultCode where
  /-- 1: `OP` is not an operation code of rule R113. -/
  | illegalOpcode
  /-- 2: a must-be-0 field is not zero. -/
  | reservedNonzero
  /-- 3: PLOAD `A >= 254`, or RREAD `A >= RLEN`. -/
  | indexRange
  /-- 4: SEND of a parameter PLOAD has not written since reset. -/
  | unwrittenParam
  /-- 5: a command issued while `STATUS.BUSY = 1`. -/
  | busy
  /-- 6: RREAD with `RVALID = 0`. -/
  | noResponse
  deriving DecidableEq, Repr

/-- The result codes of rule R35 (6 and 7 are reserved and never written). -/
inductive ResultCode where
  /-- 0: no exchange completed since reset. -/
  | none
  /-- 1: success. -/
  | ok
  /-- 2: `TransportWriteError`. -/
  | writeError
  /-- 3: `TransportReadTimeout`. -/
  | readTimeout
  /-- 4: `DeviceRejected`. -/
  | deviceRejected
  /-- 5: `ParameterInvalid`. -/
  | paramInvalid
  deriving DecidableEq, Repr

/-- The sequencer `SEQ` (rules R44 to R46): its mode, with the fields that have a meaning in that mode. -/
inductive Seq where
  /-- `IDLE`: host commands are accepted. -/
  | idle
  /-- `TX`: a SEND in progress. `body` is `SEQ.L`, `k` the index of the frame item being sent, and `pend` the wire
  bytes of item `k` not yet acknowledged; the first of them is the outstanding `TxWrite` (rules R45, R73). -/
  | tx (body : List Byte) (k : Nat) (pend : List Byte)
  /-- `RX`: a RECV in progress. `len` is `SEQ.len`, its expected length (rule R46). -/
  | rx (len : Byte)
  deriving DecidableEq, Repr

/-- One step of the environment, the alternatives of rule R298: a host command, one transport event answering the
sequencer, or reset. -/
inductive Input where
  /-- The host issues the command word `w`. -/
  | command (w : Word)
  /-- The transport answers the outstanding `TxWrite` (rule R73). -/
  | txAck (ok : Bool)
  /-- The transport delivers one response byte (rule R74). -/
  | rxByte (b : Byte)
  /-- The transport's read timeout expires (rule R74). -/
  | rxTimeout
  /-- The external reset input (rule R330). -/
  | reset
  deriving DecidableEq, Repr

/-- What the CORE shows to its environment. -/
inductive Output where
  /-- The response word to a host command (rule R120). -/
  | rsp (w : Word)
  /-- `TxWrite(w)`: a wire byte offered to the transport (rule R73). -/
  | txWrite (w : Byte)
  /-- `RxRequest(len, t)`: a read asked of the transport (rule R74). -/
  | rxRequest (len : Byte) (t : Millis)
  deriving DecidableEq, Repr

/-- The reasons the machine stops dead. A fault of the spec (rule R300) is not among them: it is a next state, from
which STATUS_READ and reset are still served (rules R301, R310). Nor is a transport that never answers: the CORE then
waits (rule R309). -/
inductive Fault where
  /-- Raised by RREAD alone, when `RVALID = 1` and `A < RLEN` but `RBUF[A]` has received no byte since reset: rule R49
  leaves that byte unspecified. Safe: no value is chosen, and no state with `Inv` (Safety.lean) raises it. -/
  | unwrittenResponse
  deriving DecidableEq, Repr

/-- The reasons the model refuses to run. -/
inductive Refusal where
  /-- A command with no meaning, by its mnemonic: raised by no arm of `exec`. Safe. -/
  | notModelled (mnemonic : String)
  /-- Raised by `step` when the parameters break rule R9 ("An instance that breaks this constraint is refused", and
  rule R310). Safe: nothing is claimed of such an instance. -/
  | illFormedConfig
  deriving DecidableEq, Repr

/-- The contents of a buffer (rules R38, R40, R70): the bytes written since reset, as (index, byte) pairs with strictly
rising indices. An index that is not listed holds no value: rule R49 leaves it "unspecified; unreadable". So `PVALID[i]`
(rule R39) is that `i` is listed in `PBUF`, and needs no storage of its own (log 3). -/
abbrev Memory := List Host.Cell

/-- The CORE, and beside it the environment as one deterministic step needs it (log 2).
Every field from `crc` to `seq` is a piece of rule R30's list, which is exactly the architectural state; STATUS is read
through `statusWord`, since BUSY has no storage (rule R36), and PVALID through `pvalid`. The other four fields are the model's own. -/
structure State where
  /-- The parameters of the instance (rule R8): not architectural state, and never changed. The model's own field. -/
  cfg : Config
  /-- `CRC` (rule R31). -/
  crc : Crc
  /-- `ESCP` (rule R32). -/
  escp : Bool
  /-- `TIMEOUT` (rule R33). -/
  timeout : Millis
  /-- `STATUS.FAULT` (rules R34, R37). -/
  fault : Option FaultCode
  /-- `STATUS.RESULT` (rules R34, R35). -/
  result : ResultCode
  /-- `PBUF[0..253]` with `PVALID[0..253]` (rules R38, R39): an index is listed exactly when its `PVALID` is 1. -/
  pbuf : Memory
  /-- `RBUF[0..254]` (rule R40). -/
  rbuf : Memory
  /-- `RLEN` (rule R41). -/
  rlen : Byte
  /-- `RVALID` (rule R41). -/
  rvalid : Bool
  /-- `RXCOUNT` (rule R42). -/
  rxcount : Byte
  /-- `SEQ` (rules R44 to R46). -/
  seq : Seq
  /-- What the environment does next, oldest first: every interleaving of rule R298 is one such list. The model's own
  field. -/
  inputs : List Input
  /-- Everything the CORE has emitted, oldest first. The model's own field. -/
  outputs : List Output
  /-- The wire bytes whose acknowledgement the sequencer has taken, oldest first (rule R83). The model's own field.
  DESIGN CHOICE (log 13): the byte of an abandoned `TxWrite` is never added, so after a `BUSY` fault or a reset the real wire
  may hold one byte more, right after the bytes listed when the exchange was abandoned. -/
  wire : List Byte
  deriving DecidableEq, Repr

/-- The CORE right after reset, for the parameters `c` (rules R49, R330). Every `PVALID[i]` is 0; the bytes of `PBUF`
and `RBUF`, which rule R49 leaves unspecified and unreadable, hold no value. -/
def State.resetWith (c : Config) : State where
  cfg := c
  crc := 0xFFFF
  escp := false
  timeout := Config.timeoutDefault
  fault := none
  result := .none
  pbuf := []
  rbuf := []
  rlen := 0
  rvalid := false
  rxcount := 0
  seq := .idle
  inputs := []
  outputs := []
  wire := []

/-- The machine right after reset under the spec's test configuration (log 1). The parameters are OPEN; the claims of
this package are made for every `Config`. -/
def State.reset : State := State.resetWith Config.excfg

/-- What a meaning or a step answers. -/
abbrev Result := Host.Outcome State Fault Refusal

end Sys2Proof.Machine
end

