-- ==== Sys2Proof/Machine/Flags.lean ====
section
/-! DEFINITION. The status register and the flags in it: BUSY, FAULT, RESULT (rules R34 to R37), and the classification
of a response (rule R241). -/

namespace Sys2Proof.Machine

/-- The numeric value of a fault code (rule R293). -/
def faultByte : FaultCode → Byte
  | .illegalOpcode => 1
  | .reservedNonzero => 2
  | .indexRange => 3
  | .unwrittenParam => 4
  | .busy => 5
  | .noResponse => 6

/-- `STATUS.FAULT`: 0 when there is no fault, else its code (rule R34). -/
def faultField (f : Option FaultCode) : Byte :=
  match f with
  | none => 0
  | some c => faultByte c

/-- The numeric value of a result code (rule R35). -/
def resultBits : ResultCode → BitVec 3
  | .none => 0
  | .ok => 1
  | .writeError => 2
  | .readTimeout => 3
  | .deviceRejected => 4
  | .paramInvalid => 5

/-- `STATUS.BUSY`: true exactly when `SEQ.mode` is `TX` or `RX` (rule R36). -/
def busyFlag (q : Seq) : Bool :=
  match q with
  | .idle => false
  | .tx _ _ _ => true
  | .rx _ => true

/-- `STATUS`, in the layout of rule R34: FAULT, BUSY, four bits hardwired to 0, RESULT. -/
def statusWord (s : State) : BitVec 16 :=
  faultField s.fault ++ BitVec.ofBool (busyFlag s.seq) ++ 0#4 ++ resultBits s.result

/-- `classify(len, r)` of rule R241: a short read is a timeout; else byte 3 of a response of 4 bytes or more is compared
with the sentinel; else the response is good. -/
def classify (c : Config) (len : Byte) (r : List Byte) : ResultCode :=
  if r.length < len.toNat then .readTimeout
  else if Config.nakMinLen ≤ len.toNat ∧ r[Config.nakIndex]? = some c.nak then .deviceRejected
  else .ok

end Sys2Proof.Machine
end

