-- ==== Sys2Proof/Machine/Operands.lean ====
section
/-! DEFINITION. The forms of what goes in and out of a command: reads and writes of the buffers (rules R38 to R40, R70 to R72) and the response words
of rules R120 to R127. -/

namespace Sys2Proof.Machine

/-- The answer with no value to return (rule R120). -/
def rspNone : Word := 0x00000000

/-- The answer of a command that faults or is ignored (rule R127). -/
def rspFault : Word := 0xFFFFFFFF

/-- `zext_32(CRC)` (rule R121). -/
def rspCrc (c : Crc) : Word := c.setWidth 32

/-- STUFF's answer: `count`, 0, `w0`, and `w1` or 0 (rules R122, R171). -/
def rspStuff (ws : List Byte) : Word :=
  BitVec.ofNat 8 ws.length ++ 0#8 ++ ws.getD 0 0 ++ (if ws.length = 2 then ws.getD 1 0 else 0#8)

/-- The event an UNSTUFF returns (rule R123). -/
inductive UnstuffEvent where
  /-- A recovered logical byte. -/
  | data (b : Byte)
  /-- An `ESC` is pending. -/
  | pending
  /-- A start marker; `dangling` says whether an escape was pending. -/
  | start (dangling : Bool)
  /-- `ESC` followed by the byte `w`, which no logical byte is escaped to. -/
  | badEscape (w : Byte)
  deriving DecidableEq, Repr

/-- `kind(ev)` of rule R123. -/
def eventKind : UnstuffEvent → Byte
  | .data _ => 0
  | .pending => 1
  | .start _ => 2
  | .badEscape _ => 3

/-- `value(ev)` of rule R123. -/
def eventValue : UnstuffEvent → Byte
  | .data b => b
  | .pending => 0
  | .start dangling => if dangling then 1 else 0
  | .badEscape w => w

/-- UNSTUFF's answer: `kind << 8 | value` (rules R123, R177). -/
def rspEvent (ev : UnstuffEvent) : Word := 0#16 ++ eventKind ev ++ eventValue ev

/-- SEND's answer: `zext_32(result)` (rules R124, R216). -/
def rspSend (r : ResultCode) : Word := (resultBits r).setWidth 32

/-- RECV's answer: `RXCOUNT << 8 | result` (rules R125, R245). -/
def rspRecv (count : Byte) (r : ResultCode) : Word := 0#16 ++ count ++ (resultBits r).setWidth 8

/-- RREAD's answer: `zext_32(RBUF[A])` (rule R126). -/
def rspByte (b : Byte) : Word := b.setWidth 32

/-- STATUS_READ's answer: `zext_32(STATUS)` (rule R126). -/
def rspStatus (st : BitVec 16) : Word := st.setWidth 32

/-- TIMEOUT_READ's answer: `zext_32(TIMEOUT)` (rule R126). -/
def rspTimeout (t : Millis) : Word := t.setWidth 32

/-- The byte a buffer holds at index `a`; `none` where nothing has been written since reset. -/
def Memory.read (m : Memory) (a : Nat) : Option Byte :=
  match m with
  | [] => none
  | (x, b) :: rest => if a = x then some b else Memory.read rest a

/-- Write one byte, keeping the indices strictly rising. -/
def Memory.write (m : Memory) (a : Nat) (v : Byte) : Memory :=
  match m with
  | [] => [(a, v)]
  | (x, b) :: rest =>
    if a < x then (a, v) :: (x, b) :: rest
    else if a = x then (a, v) :: rest
    else (x, b) :: Memory.write rest a v

/-- The bytes at indices `a, a+1, ...`, at most `k` of them, up to the first index that holds none. -/
def Memory.run (m : Memory) (a : Nat) (k : Nat) : List Byte :=
  match k with
  | 0 => []
  | k + 1 =>
    match Memory.read m a with
    | some b => b :: Memory.run m (a + 1) k
    | none => []

/-- The indices rise strictly, from `lo` on. -/
def Memory.risingFrom (lo : Nat) (m : Memory) : Bool :=
  match m with
  | [] => true
  | (x, _) :: rest => decide (lo ≤ x) && Memory.risingFrom (x + 1) rest

/-- The canonical form of a buffer of `size` bytes: strictly rising indices, all below `size` (rules R38, R40, R70). -/
def Memory.wf (size : Nat) (m : Memory) : Bool := Memory.risingFrom 0 m && m.all fun c => decide (c.1 < size)

/-- `PVALID[i]` (rule R39): `PBUF[i]` has been written since reset. -/
def pvalid (s : State) (i : Nat) : Bool := (s.pbuf.read i).isSome

/-- The parameters `PBUF[0], ..., PBUF[n-1]` a SEND reads, in index order (rules R71, R209), up to the first whose
`PVALID` is 0: all `n` of them exactly when every one is written. -/
def sendParams (s : State) (n : Byte) : List Byte := s.pbuf.run 0 n.toNat

/-- `RBUF[0 .. len-1]`, in delivery order (rules R72, R244). -/
def response (s : State) (len : Byte) : List Byte := s.rbuf.run 0 len.toNat

end Sys2Proof.Machine
end

