-- ==== Sys2Proof/Machine/Ops.lean ====
section
/-! DEFINITION. The shared operations: emitting an output, answering a command, the checks common to every command,
entering the faulted state, and the reset input, which is the only way out of it. -/

namespace Sys2Proof.Machine

/-- The CORE emits `o`. -/
def emit (o : Output) (s : State) : State := { s with outputs := s.outputs ++ [o] }

/-- The CORE answers the command with the word `w` (rule R120). -/
def respond (w : Word) (s : State) : State := emit (.rsp w) s

/-- Fault entry, `raise Fault(code)` (rule R300): the code is kept, an exchange in flight is abandoned, and the faulting
command is answered `0xFFFFFFFF`. Nothing else is saved and nothing else changes (rule R299). -/
def raiseFault (code : FaultCode) (s : State) : State :=
  respond rspFault { s with fault := some code, seq := .idle }

/-- A command ignored in the faulted state: no effect but the answer `0xFFFFFFFF` (rules R296 case 1, R301). -/
def ignoreCommand (s : State) : State := respond rspFault s

/-- Checks 1 and 2 of rule R296, in that order, for every command word but the well-formed STATUS_READ: in the faulted
state it is ignored, while busy it faults `BUSY`, and otherwise `body` runs. -/
def accept (body : State → Result) (s : State) : Result :=
  match s.fault with
  | some _ => .next (ignoreCommand s)
  | none => if busyFlag s.seq then .next (raiseFault .busy s) else body s

/-- The same for the well-formed STATUS_READ, which check 1 lets through and check 2 does not (rules R270, R271, R296). -/
def acceptStatusRead (body : State → Result) (s : State) : Result :=
  if busyFlag s.seq then .next (raiseFault .busy s) else body s

/-- The fault a command word that selects no command raises (rule R296 cases 3 and 4). -/
def decodeFault : DecodeError → FaultCode
  | .illegalOpcode => .illegalOpcode
  | .reservedNonzero => .reservedNonzero

/-- The reset input (rules R330, R331): every piece of the CORE's state takes its reset value, whatever was in progress
and whether or not the CORE is faulted. The parameters stay, nothing is emitted, and what is on the wire stays there. -/
def applyReset (s : State) : State :=
  { State.resetWith s.cfg with inputs := s.inputs, outputs := s.outputs, wire := s.wire }

end Sys2Proof.Machine
end

