-- ==== Sys2Proof/Machine/Control.lean ====
section
/-! DEFINITION. The control and status commands (44_control.md): STATUS_READ, SET_TIMEOUT, TIMEOUT_READ. -/

namespace Sys2Proof.Machine

/-- STATUS_READ (rules R270, R271): the one command served in the faulted state. -/
def execStatusRead (s : State) : Result :=
  acceptStatusRead (fun s => .next (respond (rspStatus (statusWord s)) s)) s

/-- SET_TIMEOUT (rule R272): every 24-bit value is legal. -/
def execSetTimeout (ms : Millis) (s : State) : Result :=
  accept (fun s => .next (respond rspNone { s with timeout := ms })) s

/-- TIMEOUT_READ (rule R274). -/
def execTimeoutRead (s : State) : Result :=
  accept (fun s => .next (respond (rspTimeout s.timeout) s)) s

end Sys2Proof.Machine
end

