-- ==== Sys2Proof/Machine/FrameDecoder.lean ====
section
/-! DEFINITION. The serial frame decoder (43_decoder.md): the RX sequencer, and the commands RECV and RREAD. -/

namespace Sys2Proof.Machine

/-- `complete(r)` for a RECV of `len` bytes (rule R245): only `OK` makes the response readable, and `RLEN` keeps its
earlier value otherwise. -/
def completeRecv (len : Byte) (r : ResultCode) (s : State) : State :=
  respond (rspRecv s.rxcount r)
    { s with
      seq := .idle
      result := r
      rvalid := r == .ok
      rlen := if r = .ok then len else s.rlen }

/-- The acceptance step of RECV once the common checks have passed (rules R242, R243): the request carries the value
`TIMEOUT` has now; a length of 0 completes at once with no transport event. -/
def beginRecv (len : Byte) (s : State) : State :=
  if len = 0 then completeRecv 0 .ok { s with rvalid := false, rxcount := 0 }
  else emit (.rxRequest len s.timeout) { s with rvalid := false, rxcount := 0, seq := .rx len }

/-- `RBUF[RXCOUNT] <- b; RXCOUNT <- RXCOUNT + 1` (rule R244). -/
def storeByte (b : Byte) (s : State) : State :=
  { s with rbuf := s.rbuf.write s.rxcount.toNat b, rxcount := s.rxcount + 1 }

/-- The end of a RECV when `RXCOUNT` has reached its length (rule R244). -/
def finishIfFull (len : Byte) (s : State) : State :=
  if s.rxcount = len then completeRecv len (classify s.cfg len (response s len)) s else s

/-- `RxByte(b)`. In mode `RX` with bytes still wanted it is stored (rule R244); otherwise nothing waits for it and it is
dropped (rules R75, R301, R331; log 4). -/
def takeRxByte (b : Byte) (s : State) : State :=
  match s.seq with
  | .rx len => if s.rxcount.toNat < len.toNat then finishIfFull len (storeByte b s) else s
  | .idle => s
  | .tx _ _ _ => s

/-- `RxTimeout`. In mode `RX` with bytes still wanted the RECV ends with `READ_TIMEOUT` (rule R246); otherwise nothing
waits for it and it is dropped (rules R75, R301, R331; log 4). -/
def takeRxTimeout (s : State) : State :=
  match s.seq with
  | .rx len => if s.rxcount.toNat < len.toNat then completeRecv len .readTimeout s else s
  | .idle => s
  | .tx _ _ _ => s

/-- The effect of RREAD once the common checks have passed (rule R247): `RVALID` first, then the index. A byte that has
never been received is not read as a value: the machine stops (`Fault.unwrittenResponse`), in no state a run reaches. -/
def readResponse (idx : Byte) (s : State) : Result :=
  if s.rvalid then
    if idx.toNat < s.rlen.toNat then
      match s.rbuf.read idx.toNat with
      | some b => .next (respond (rspByte b) s)
      | none => .fault .unwrittenResponse
    else .next (raiseFault .indexRange s)
  else .next (raiseFault .noResponse s)

/-- RECV (rule R242): this is its acceptance step; the rest runs one transport event a step, in `takeRxByte` and
`takeRxTimeout`. -/
def execRecv (len : Byte) (s : State) : Result :=
  accept (fun s => .next (beginRecv len s)) s

/-- RREAD (rule R247). -/
def execRread (idx : Byte) (s : State) : Result :=
  accept (readResponse idx) s

end Sys2Proof.Machine
end

