-- ==== Sys2Proof/Machine/Crc.lean ====
section
/-! DEFINITION. The CRC-16 generator (40_crc.md): the update function and the commands CRC_INIT, CRC_UPDATE, CRC_READ. -/

namespace Sys2Proof.Machine

/-- One turn of rule R150's loop on the checksum state and the shifted byte. -/
def crcStep (p : Crc × Byte) : Crc × Byte :=
  let top := (p.1 &&& 0x8000#16) ^^^ ((p.2 &&& 0x80#8).setWidth 16 <<< 8)
  (if top == 0x8000#16 then (p.1 <<< 1) ^^^ Config.poly else p.1 <<< 1, p.2 <<< 1)

/-- `k` turns of rule R150's loop. -/
def crcSteps : Nat → Crc × Byte → Crc × Byte
  | 0, p => p
  | k + 1, p => crcSteps k (crcStep p)

/-- `crcUpdate(s, b)` of rule R150: eight turns, most significant bit first. -/
def crcUpdate (s : Crc) (b : Byte) : Crc := (crcSteps 8 (s, b)).1

/-- One turn of rule R151's loop, on bit `j` of the original byte. -/
def crcBit (b : Byte) (s : Crc) (j : Nat) : Crc :=
  (s <<< 1) ^^^ (if s.getLsbD 15 ^^ b.getLsbD j then Config.poly else 0)

/-- The equivalent form of rule R151: bits 7 down to 0 of the byte, in that order. -/
def crcUpdateByBits (s : Crc) (b : Byte) : Crc := [7, 6, 5, 4, 3, 2, 1, 0].foldl (crcBit b) s

/-- `crc16(bs)` of rule R155: `crcUpdate` folded over `bs` from 0xFFFF, with no final step. -/
def crc16 (bs : List Byte) : Crc := bs.foldl crcUpdate Config.crcInitValue

/-- CRC_INIT (rule R152). -/
def execCrcInit (s : State) : Result :=
  accept (fun s => .next (respond rspNone { s with crc := Config.crcInitValue })) s

/-- CRC_UPDATE (rules R153, R121): the answer is taken after the effect. -/
def execCrcUpdate (b : Byte) (s : State) : Result :=
  accept (fun s => .next (respond (rspCrc (crcUpdate s.crc b)) { s with crc := crcUpdate s.crc b })) s

/-- CRC_READ (rule R154). -/
def execCrcRead (s : State) : Result :=
  accept (fun s => .next (respond (rspCrc s.crc) s)) s

end Sys2Proof.Machine
end

