-- ==== Sys2Proof/Machine/Stuffing.lean ====
section
/-! DEFINITION. The byte-stuffer and the unstuffer (41_stuffing.md): the functions, and the commands STUFF,
UNSTUFF_RESET and UNSTUFF. -/

namespace Sys2Proof.Machine

/-- `stuff(b)` of rule R170: a marker becomes `ESC, b | 0x80`, and any other byte passes. -/
def stuff (c : Config) (b : Byte) : List Byte :=
  if b = c.stx ∨ b = c.esc then [c.esc, b ||| Config.escMask] else [b]

/-- `stuffSeq(bs)` of rule R172: `stuff` byte by byte. -/
def stuffSeq (c : Config) (bs : List Byte) : List Byte := bs.flatMap (stuff c)

/-- `unstuffStep(p, w)` of rule R176. -/
def unstuffStep (c : Config) (p : Bool) (w : Byte) : Bool × UnstuffEvent :=
  if p then
    if w = c.stx then (false, .start true)
    else if w = c.esc ||| Config.escMask then (false, .data c.esc)
    else if w = c.stx ||| Config.escMask then (false, .data c.stx)
    else (false, .badEscape w)
  else
    if w = c.stx then (false, .start false)
    else if w = c.esc then (true, .pending)
    else (false, .data w)

/-- Why `unstuffSeq` stops (rule R178). -/
inductive UnstuffError where
  /-- `UNEXPECTED_START`: a start marker. -/
  | unexpectedStart
  /-- `BAD_ESCAPE`: `ESC` and then a byte no escape uses. -/
  | badEscape
  /-- `TRUNCATED_ESCAPE`: an `ESC` with nothing after it. -/
  | truncatedEscape
  deriving DecidableEq, Repr

/-- The loop of `unstuffSeq` (rule R178): `p` is the pending bit, `i` the index of the next wire byte, `acc` the data
collected so far. -/
def unstuffFrom (c : Config) (p : Bool) (i : Nat) (acc : List Byte) :
    List Byte → Except (UnstuffError × Nat) (List Byte)
  | [] => if p then .error (.truncatedEscape, i) else .ok acc
  | w :: ws =>
    match unstuffStep c p w with
    | (p', .data b) => unstuffFrom c p' (i + 1) (acc ++ [b]) ws
    | (p', .pending) => unstuffFrom c p' (i + 1) acc ws
    | (_, .start _) => .error (.unexpectedStart, i)
    | (_, .badEscape _) => .error (.badEscape, i)

/-- `unstuffSeq(ws)` of rule R178: the data, or the first error and its position. -/
def unstuffSeq (c : Config) (ws : List Byte) : Except (UnstuffError × Nat) (List Byte) := unstuffFrom c false 0 [] ws

/-- STUFF (rules R171, R122). -/
def execStuff (b : Byte) (s : State) : Result :=
  accept (fun s => .next (respond (rspStuff (stuff s.cfg b)) s)) s

/-- UNSTUFF_RESET (rule R175). -/
def execUnstuffReset (s : State) : Result :=
  accept (fun s => .next (respond rspNone { s with escp := false })) s

/-- UNSTUFF (rules R177, R123): every event is an answer, none is a fault. -/
def execUnstuff (w : Byte) (s : State) : Result :=
  accept (fun s => .next (respond (rspEvent (unstuffStep s.cfg s.escp w).2)
    { s with escp := (unstuffStep s.cfg s.escp w).1 })) s

end Sys2Proof.Machine
end

