-- ==== Sys2Proof/Machine/FrameEncoder.lean ====
section
/-! DEFINITION. The serial frame encoder (42_encoder.md): the frame, the TX sequencer, and the commands PLOAD and SEND. -/

namespace Sys2Proof.Machine

/-- The logical body `L = [0x00, 1 + n, cmd] ++ P` (rules R45, R210, R219). -/
def frameBody (cmd : Byte) (ps : List Byte) : List Byte :=
  Config.lenHiValue :: BitVec.ofNat 8 (1 + ps.length) :: cmd :: ps

/-- `c[15:8]`, the byte sent first (rule R76). -/
def crcHi (c : Crc) : Byte := c.extractLsb' 8 8

/-- `c[7:0]` (rule R76). -/
def crcLo (c : Crc) : Byte := c.extractLsb' 0 8

/-- `frameWire(cmd, P)` of rule R210. -/
def frameWire (c : Config) (cmd : Byte) (ps : List Byte) : List Byte :=
  [c.stx] ++ stuffSeq c (frameBody cmd ps) ++ stuff c (crcHi (crc16 (frameBody cmd ps))) ++
    stuff c (crcLo (crc16 (frameBody cmd ps)))

/-- The wire bytes of item `k` of the frame with body `body` (rule R45): `STX` raw, the body's bytes escaped, then the
checksum's two bytes escaped. -/
def itemWire (c : Config) (body : List Byte) (k : Nat) : List Byte :=
  match k with
  | 0 => [c.stx]
  | j + 1 =>
    match body[j]? with
    | some x => stuff c x
    | none => if j = body.length then stuff c (crcHi (crc16 body)) else stuff c (crcLo (crc16 body))

/-- `complete(r)` for a SEND (rule R216). -/
def completeSend (r : ResultCode) (s : State) : State :=
  respond (rspSend r) { s with seq := .idle, result := r }

/-- Enter `TX` at item `k` with the wire bytes `pend` and offer the first of them: `TxWrite(SEQ.pend[0])` (rule R213). -/
def offerItem (body : List Byte) (k : Nat) (pend : List Byte) (s : State) : State :=
  { s with seq := .tx body k pend, outputs := s.outputs ++ (pend.take 1).map .txWrite }

/-- The fold of the transmit-logical-byte primitive, step (a) of rule R212. -/
def foldByte (fold : Bool) (x : Byte) (s : State) : State :=
  if fold then { s with crc := crcUpdate s.crc x } else s

/-- The transmit-logical-byte primitive of rule R212 at item `k`: (a) fold the byte into the checksum when asked, (b)
escape it always; then offer its first wire byte. -/
def transmitByte (body : List Byte) (k : Nat) (x : Byte) (fold : Bool) (s : State) : State :=
  offerItem body k (stuff s.cfg x) (foldByte fold x s)

/-- `startItem(k)` of rule R213. Item 0 is `STX`, raw and unfolded; items 1 to `n+3` are the body, folded; items `n+4`
and `n+5` are the checksum's two bytes, unfolded. -/
def startItem (body : List Byte) (k : Nat) (s : State) : State :=
  match k with
  | 0 => offerItem body 0 [s.cfg.stx] s
  | j + 1 =>
    match body[j]? with
    | some x => transmitByte body (j + 1) x true s
    | none =>
      if j = body.length then transmitByte body (j + 1) (crcHi s.crc) false s
      else transmitByte body (j + 1) (crcLo s.crc) false s

/-- The acceptance of a SEND (rule R209): the body is captured, the checksum initialised, item 0 started. -/
def startSend (cmd : Byte) (ps : List Byte) (s : State) : State :=
  startItem (frameBody cmd ps) 0 { s with crc := Config.crcInitValue }

/-- `TxAck(true)` in mode `TX` (rule R214): the acknowledged byte is on the wire (rule R83); the second byte of an
escaped pair, the next item, or completion follows. Item `n+5` is `body.length + 2`. -/
def txAccepted (body : List Byte) (k : Nat) (pend : List Byte) (s : State) : State :=
  match pend.drop 1 with
  | w :: rest => offerItem body k (w :: rest) { s with wire := s.wire ++ pend.take 1 }
  | [] =>
    if k = body.length + 2 then completeSend .ok { s with wire := s.wire ++ pend.take 1 }
    else startItem body (k + 1) { s with wire := s.wire ++ pend.take 1 }

/-- `TxAck(ok)`. In mode `TX` it answers the outstanding write: true advances (rule R214) and false ends the SEND with
`WRITE_ERROR` (rule R215). In any other mode nothing waits for it and it is dropped (rules R75, R301, R331; log 4), and no
byte is added to `wire`, whichever `TxWrite` it may have answered (DESIGN CHOICE, log 13). -/
def takeTxAck (ok : Bool) (s : State) : State :=
  match s.seq with
  | .tx body k pend => if ok then txAccepted body k pend s else completeSend .writeError s
  | .idle => s
  | .rx _ => s

/-- The effect of PLOAD once the common checks have passed (rule R201): writing `PBUF[A]` sets `PVALID[A]`. -/
def loadParam (idx v : Byte) (s : State) : State :=
  if idx.toNat < Config.pbufSize then respond rspNone { s with pbuf := s.pbuf.write idx.toNat v }
  else raiseFault .indexRange s

/-- The acceptance step of SEND once the common checks have passed (rules R206 to R209): the count, then the written
bits, then the sequencer. -/
def beginSend (cmd n : Byte) (s : State) : State :=
  if 255 ≤ n.toNat then completeSend .paramInvalid s
  else if (sendParams s n).length < n.toNat then raiseFault .unwrittenParam s
  else startSend cmd (sendParams s n) s

/-- PLOAD (rule R201). -/
def execPload (idx v : Byte) (s : State) : Result :=
  accept (fun s => .next (loadParam idx v s)) s

/-- SEND (rule R206): this is its acceptance step; the rest runs one transport event a step, in `takeTxAck`. -/
def execSend (cmd n : Byte) (s : State) : Result :=
  accept (fun s => .next (beginSend cmd n s)) s

end Sys2Proof.Machine
end

