-- ==== Sys2Proof/Machine/Dispatch.lean ====
section
/-! DEFINITION. One arm per command: the meaning of a decoded command word, the common checks of rule R296 included. -/

namespace Sys2Proof.Machine

def exec (i : Instr) (s : State) : Host.Outcome State Fault Refusal :=
  match i with
  | .crcInit => Sys2Proof.Machine.execCrcInit s
  | .crcUpdate b => Sys2Proof.Machine.execCrcUpdate b s
  | .crcRead => Sys2Proof.Machine.execCrcRead s
  | .stuff b => Sys2Proof.Machine.execStuff b s
  | .unstuffReset => Sys2Proof.Machine.execUnstuffReset s
  | .unstuff w => Sys2Proof.Machine.execUnstuff w s
  | .pload idx v => Sys2Proof.Machine.execPload idx v s
  | .send cmd n => Sys2Proof.Machine.execSend cmd n s
  | .recv len => Sys2Proof.Machine.execRecv len s
  | .rread idx => Sys2Proof.Machine.execRread idx s
  | .statusRead => Sys2Proof.Machine.execStatusRead s
  | .setTimeout ms => Sys2Proof.Machine.execSetTimeout ms s
  | .timeoutRead => Sys2Proof.Machine.execTimeoutRead s

end Sys2Proof.Machine
end

