-- ==== Sys2Proof/Machine/Events.lean ====
section
/-! DEFINITION. What one step of the environment does to the CORE (rule R298): a command word, a transport event, or
reset. -/

namespace Sys2Proof.Machine

/-- The host issues the command word `w` (rules R114, R296). Checks 1 and 2 stand inside every meaning (`accept`), and
before checks 3 and 4 for a word that selects no command. -/
def takeCommand (w : Word) (s : State) : Result :=
  match decode w with
  | .ok i => exec i s
  | .error e => accept (fun s => .next (raiseFault (decodeFault e) s)) s

/-- One input, with the CORE in state `s`. -/
def takeInput (i : Input) (s : State) : Result :=
  match i with
  | .command w => takeCommand w s
  | .txAck ok => .next (takeTxAck ok s)
  | .rxByte b => .next (takeRxByte b s)
  | .rxTimeout => .next (takeRxTimeout s)
  | .reset => .next (applyReset s)

/-- The next input is consumed and acted on. With none, the CORE waits and holds its state (rule R309): for ever, if
none ever comes (rules R84, R310). -/
def runNext (s : State) : Result :=
  match s.inputs with
  | [] => .next s
  | i :: rest => takeInput i { s with inputs := rest }

end Sys2Proof.Machine
end

