-- ==== Sys2Proof/Machine/Step.lean ====
section
/-! DEFINITION. One step of the machine, and where the host's next command word is put. -/

namespace Sys2Proof.Machine

/-- One step: an instance whose parameters break rule R9 is refused (rule R310); otherwise the next input is taken
(rule R298). -/
def step (s : State) : Host.Outcome State Fault Refusal :=
  if s.cfg.wf then runNext s else .refused .illFormedConfig

/-- The CORE fetches nothing (rule R43): the host supplies each command word. This is `s` with the word `w` as the
host's very next command (log 5). -/
def State.withFetchWord (s : State) (nbits w : Nat) : State :=
  { s with inputs := .command (BitVec.ofNat 32 (w % 2 ^ nbits)) :: s.inputs }

end Sys2Proof.Machine
end

