-- ==== Sys2Proof/Machine/HostLayer.lean ====
section
/-! DEFINITION. The host side of the interface, as functions of what the host means to do: the assembler forms of rule
R130, the pseudo-commands of rule R131, and the Command Layer of rules R15 to R18. The CORE enforces none of it; it is the
source of the command words a host issues. -/

namespace Sys2Proof.Machine

/-- A host program as inputs: one command word after another. -/
def commandInputs (is : List Instr) : List Input := is.map fun i => .command (encode i)

/-- The textual mnemonic of each operation code (rules R113, R130). -/
def mnemonicText : Opcode → String
  | .crcInit => "CRC_INIT"
  | .crcUpdate => "CRC_UPDATE"
  | .crcRead => "CRC_READ"
  | .stuff => "STUFF"
  | .unstuffReset => "UNSTUFF_RESET"
  | .unstuff => "UNSTUFF"
  | .pload => "PLOAD"
  | .send => "SEND"
  | .recv => "RECV"
  | .rread => "RREAD"
  | .statusRead => "STATUS_READ"
  | .setTimeout => "SET_TIMEOUT"
  | .timeoutRead => "TIMEOUT_READ"

/-- One operand of a textual form as a byte; a number that does not fit is no operand. -/
def byteOperand (v : Nat) : Option Byte := if v < 2 ^ 8 then some (BitVec.ofNat 8 v) else none

/-- The command a textual form stands for (rule R130), its operands read as numbers; `none` when the form has another
number of operands or one does not fit (`ms` must be below 2^24). -/
def assemble (op : Opcode) (operands : List Nat) : Option Instr :=
  match op, operands with
  | .crcInit, [] => some .crcInit
  | .crcUpdate, [b] => (byteOperand b).map .crcUpdate
  | .crcRead, [] => some .crcRead
  | .stuff, [b] => (byteOperand b).map .stuff
  | .unstuffReset, [] => some .unstuffReset
  | .unstuff, [w] => (byteOperand w).map .unstuff
  | .pload, [idx, v] => (byteOperand idx).bind fun i => (byteOperand v).map (.pload i)
  | .send, [cmd, n] => (byteOperand cmd).bind fun c => (byteOperand n).map (.send c)
  | .recv, [len] => (byteOperand len).map .recv
  | .rread, [idx] => (byteOperand idx).map .rread
  | .statusRead, [] => some .statusRead
  | .setTimeout, [ms] => if ms < 2 ^ 24 then some (.setTimeout (BitVec.ofNat 24 ms)) else none
  | .timeoutRead, [] => some .timeoutRead
  | _, _ => none

/-- `CRC_BLOCK b0, ..., bk-1` (rule R131). -/
def crcBlock (bs : List Byte) : List Instr := .crcInit :: (bs.map .crcUpdate ++ [.crcRead])

/-- `PLOAD i, p0; PLOAD i+1, p1; ...` (rule R131). DESIGN CHOICE (log 12): an index above 255, which fits no operand, is
taken modulo 256. -/
def loadParams (i : Nat) (ps : List Byte) : List Instr :=
  match ps with
  | [] => []
  | p :: rest => .pload (BitVec.ofNat 8 i) p :: loadParams (i + 1) rest

/-- `FRAME cmd, p0, ..., pn-1` (rule R131). DESIGN CHOICE (log 12): rule R131 does not bound `n`, and with more than 255
parameters some operand fits no byte; indices and count are then taken modulo 256, where `assemble` would answer `none`. No
statement speaks of a FRAME of more than 254 parameters. -/
def frameCommands (cmd : Byte) (ps : List Byte) : List Instr :=
  loadParams 0 ps ++ [.send cmd (BitVec.ofNat 8 ps.length)]

/-- What follows the FRAME of an `EXCHANGE len, ...` once its SEND has the result `r`: the RECV, only if it is `OK` (rules
R131, R292). -/
def exchangeTail (len : Byte) (r : ResultCode) : List Instr := if r = .ok then [.recv len] else []

/-- The OPEN command bytes `CMD_<name>` of rule R16 (decision D7): any bytes. -/
structure CommandBytes where
  version : Byte
  displayText : Byte
  storeText : Byte
  setSpeed : Byte
  displayPattern : Byte
  storeFirstFrame : Byte
  storeNextFrame : Byte
  setMode : Byte
  factoryReset : Byte
  deriving DecidableEq, Repr

/-- The host's operations (rules R16, R17). -/
inductive HostOp where
  | version
  | displayText (text : List Byte)
  | storeText (text : List Byte)
  | setSpeed (speed : Byte)
  | displayPattern (rows : Vector Byte 8)
  | storeFirstFrame (rows : Vector Byte 8) (delay : Byte)
  | storeNextFrame (rows : Vector Byte 8) (delay : Byte)
  | setMode
  | factoryReset
  deriving DecidableEq, Repr

/-- The triple of rule R15: command byte, parameters, and expected response length; `none` for the fire-and-forget
factory reset (rules R16, R345). -/
def hostTriple (c : CommandBytes) : HostOp → Byte × List Byte × Option Byte
  | .version => (c.version, [], some 12)
  | .displayText text => (c.displayText, text, some 6)
  | .storeText text => (c.storeText, text, some 6)
  | .setSpeed speed => (c.setSpeed, [speed], some 6)
  | .displayPattern rows => (c.displayPattern, rows.toList, some 6)
  | .storeFirstFrame rows delay => (c.storeFirstFrame, rows.toList ++ [delay], some 6)
  | .storeNextFrame rows delay => (c.storeNextFrame, rows.toList ++ [delay], some 6)
  | .setMode => (c.setMode, [], some 6)
  | .factoryReset => (c.factoryReset, [], none)

/-- The host's own validation (rule R18, with the limit 254 of 90_conflicts.md C1): a text that is too long is rejected
before any command is issued; otherwise the operation's FRAME. -/
def hostFrame (c : CommandBytes) (op : HostOp) : Option (List Instr) :=
  if (hostTriple c op).2.1.length ≤ Config.pbufSize then
    some (frameCommands (hostTriple c op).1 (hostTriple c op).2.1)
  else none

/-- What the operation issues after its FRAME, once the SEND has the result `r` (rules R15, R292, R345): the RECV of the
expected length, only on `OK`; nothing when the expected length is "none". -/
def hostFollowUp (c : CommandBytes) (op : HostOp) (r : ResultCode) : List Instr :=
  match (hostTriple c op).2.2 with
  | some len => exchangeTail len r
  | none => []

/-- The outcome of one operation: "the first failure encountered", unchanged (rules R15, R291, R292). `sent` is the result
of its SEND, and `received` that of its RECV where one is issued. The operation the host itself rejects has the parameter
error of rule R18, and no failure at all is `OK`. It keeps nothing from one operation to the next ("stateless per call"). -/
def hostOutcome (c : CommandBytes) (op : HostOp) (sent received : ResultCode) : ResultCode :=
  match hostFrame c op with
  | none => .paramInvalid
  | some _ => if hostFollowUp c op sent = [] then sent else received

end Sys2Proof.Machine
end

