-- ==== Sys2Proof/Safety.lean ====
section
/-! DEFINITION. What claims about runs are said with: when the CORE accepts a command, what it has answered, which inputs
it waits for, how a transport may end a read, and the invariant of every reachable state. -/

namespace Sys2Proof.Machine

/-- The CORE accepts any command (rule R332): not faulted, and no exchange in progress. -/
structure Ready (s : State) : Prop where
  noFault : s.fault = none
  idle : s.seq = .idle

/-- `n` steps, stopping at a fault or a refusal: a run of the machine of Machine/Core.lean. -/
def run (n : Nat) (s : State) : Result := Host.Core.run Sys2Proof.core n s

/-- The response words among some outputs, oldest first. -/
def responses (os : List Output) : List Word :=
  os.filterMap fun o =>
    match o with
    | .rsp w => some w
    | .txWrite _ => none
    | .rxRequest _ _ => none

/-- Whether the CORE, in state `s`, waits for the transport event `i` (rule R75); a command or a reset needs no waiting. -/
def awaited (s : State) (i : Input) : Bool :=
  match i with
  | .command _ => true
  | .reset => true
  | .txAck _ =>
    match s.seq with
    | .tx _ _ _ => true
    | .idle => false
    | .rx _ => false
  | .rxByte _ | .rxTimeout =>
    match s.seq with
    | .rx len => decide (s.rxcount.toNat < len.toNat)
    | .idle => false
    | .tx _ _ _ => false

/-- The transport's duty after a request with `need` bytes still wanted (rules R74, R85): all of them, or fewer and then
the timeout. -/
def EndsRead (need : Nat) (evs : List Input) : Prop :=
  (∃ bs : List Byte, bs.length = need ∧ evs = bs.map .rxByte) ∨
    ∃ bs : List Byte, bs.length < need ∧ evs = bs.map .rxByte ++ [.rxTimeout]

/-- The DATA values among UNSTUFF answers (rule R123): the words of kind 0, their low byte. -/
def dataValues (ws : List Word) : List Byte :=
  ws.filterMap fun w => if w.extractLsb' 8 8 = 0#8 then some (w.extractLsb' 0 8) else none

/-- What holds while a SEND is in progress (rules R45, R73, R211, R219). -/
structure TxInv (s : State) (body : List Byte) (k : Nat) (pend : List Byte) : Prop where
  /-- The captured body is that of a frame with at most 254 parameters. -/
  captured : ∃ cmd ps, body = frameBody cmd ps ∧ ps.length ≤ Config.pbufSize
  /-- `SEQ.k` stays within `0 .. n+5`. -/
  inRange : k ≤ body.length + 2
  /-- The checksum covers the body bytes whose items have started. -/
  checksum : s.crc = crc16 (body.take k)
  /-- `SEQ.pend` is what is left of item `k`, at least one byte. -/
  pending : pend ≠ [] ∧ pend <:+ itemWire s.cfg body k
  /-- The one outstanding `TxWrite` is the last thing emitted. -/
  outstanding : s.outputs.getLast? = pend.head?.map .txWrite

/-- What holds while a RECV is in progress (rules R41, R46, R75). -/
structure RxInv (s : State) (len : Byte) : Prop where
  /-- Bytes are still wanted. -/
  wanted : s.rxcount.toNat < len.toNat
  /-- The response is not readable yet. -/
  unreadable : s.rvalid = false

/-- The invariant of every state a run from reset reaches. -/
structure Inv (s : State) : Prop where
  /-- `PBUF` is in its canonical form (rule R38). -/
  pbufForm : s.pbuf.wf Config.pbufSize = true
  /-- `RBUF` is in its canonical form (rule R40). -/
  rbufForm : s.rbuf.wf Config.rbufSize = true
  /-- The bytes the current or last RECV received are all there (rules R42, R244). -/
  received : ∀ i < s.rxcount.toNat, ∃ b, s.rbuf.read i = some b
  /-- A readable response has exactly the bytes received (rules R41, R245). -/
  readable : s.rvalid = true → s.rlen = s.rxcount
  /-- In the faulted state nothing is in progress (rules R300, R301). -/
  quiescent : s.fault ≠ none → s.seq = .idle
  /-- A SEND in progress is in order. -/
  sending : ∀ body k pend, s.seq = .tx body k pend → TxInv s body k pend
  /-- A RECV in progress is in order. -/
  receiving : ∀ len, s.seq = .rx len → RxInv s len

/-- Two states that differ at most in `RBUF` bytes the current or last RECV has not delivered. -/
structure SameButStaleBytes (s t : State) : Prop where
  rest : t = { s with rbuf := t.rbuf }
  delivered : ∀ i < s.rxcount.toNat, t.rbuf.read i = s.rbuf.read i

end Sys2Proof.Machine
end

