-- ==== Sys2Proof/Certificates/Slice0/Obligations.lean ====
section
/-! DEFINITION. The statements for the provers. Every one that speaks of markers holds for every well-formed configuration,
not for the test values of `State.reset`. A state's `outputs` is all the CORE has emitted, oldest first, so an equation for
`outputs` says also what a command does not emit; a record equation says what it leaves unchanged. -/

open Sys2Proof Sys2Proof.Machine

/-! ## Encoding -/

/-- One word of each unit, written out from rule R113's fields (the words of 95_test_vectors.md), decodes to its command. -/
def Obligations.KnownWordsDecode : Prop :=
  decode 0x01000000 = .ok .crcInit ∧ decode 0x02310000 = .ok (.crcUpdate 0x31) ∧
  decode 0x107E0000 = .ok (.stuff 0x7E) ∧ decode 0x217D0000 = .ok (.unstuff 0x7D) ∧
  decode 0x30014900 = .ok (.pload 1 0x49) ∧ decode 0x31210200 = .ok (.send 0x21 2) ∧
  decode 0x400C0000 = .ok (.recv 12) ∧ decode 0x41050000 = .ok (.rread 5) ∧
  decode 0x51123456 = .ok (.setTimeout 0x123456)

/-- Decoding an encoded command gives it back, for every command and every operand. -/
def Obligations.DecodeOfEncode : Prop := ∀ i : Instr, decode (encode i) = .ok i

/-- A word that decodes is the encoding of what it decodes to: the decoder drops no bit. -/
def Obligations.EncodeOfDecode : Prop := ∀ (w : Word) (i : Instr), decode w = .ok i → encode i = w

/-- The decoder accepts a word as a command of operation code `o` exactly when the word matches `o`'s row of
spec/opcode_table.json: `w & mask = match`. -/
def Obligations.DecoderAgreesWithOpcodeTable : Prop :=
  ∀ (w : Word) (o : Opcode), (∃ i, decode w = .ok i ∧ opcodeOf i = o) ↔ w &&& tableMask o = tableMatch o

/-- Rule R113: the opcode map, row by row, and the illegal values of `OP`, which fault `ILLEGAL_OPCODE`. -/
def Obligations.OpcodeMapAsListed : Prop :=
  ∀ w : Word,
    (fieldOp w = 0x01 ∧ fieldA w = 0 ∧ fieldB w = 0 ∧ fieldC w = 0 → decode w = .ok .crcInit) ∧
    (fieldOp w = 0x02 ∧ fieldB w = 0 ∧ fieldC w = 0 → decode w = .ok (.crcUpdate (fieldA w))) ∧
    (fieldOp w = 0x03 ∧ fieldA w = 0 ∧ fieldB w = 0 ∧ fieldC w = 0 → decode w = .ok .crcRead) ∧
    (fieldOp w = 0x10 ∧ fieldB w = 0 ∧ fieldC w = 0 → decode w = .ok (.stuff (fieldA w))) ∧
    (fieldOp w = 0x20 ∧ fieldA w = 0 ∧ fieldB w = 0 ∧ fieldC w = 0 → decode w = .ok .unstuffReset) ∧
    (fieldOp w = 0x21 ∧ fieldB w = 0 ∧ fieldC w = 0 → decode w = .ok (.unstuff (fieldA w))) ∧
    (fieldOp w = 0x30 ∧ fieldC w = 0 → decode w = .ok (.pload (fieldA w) (fieldB w))) ∧
    (fieldOp w = 0x31 ∧ fieldC w = 0 → decode w = .ok (.send (fieldA w) (fieldB w))) ∧
    (fieldOp w = 0x40 ∧ fieldB w = 0 ∧ fieldC w = 0 → decode w = .ok (.recv (fieldA w))) ∧
    (fieldOp w = 0x41 ∧ fieldB w = 0 ∧ fieldC w = 0 → decode w = .ok (.rread (fieldA w))) ∧
    (fieldOp w = 0x50 ∧ fieldA w = 0 ∧ fieldB w = 0 ∧ fieldC w = 0 → decode w = .ok .statusRead) ∧
    (fieldOp w = 0x51 → decode w = .ok (.setTimeout (fieldA w ++ fieldB w ++ fieldC w))) ∧
    (fieldOp w = 0x52 ∧ fieldA w = 0 ∧ fieldB w = 0 ∧ fieldC w = 0 → decode w = .ok .timeoutRead) ∧
    (let op := (fieldOp w).toNat
     op = 0x00 ∨ (0x04 ≤ op ∧ op ≤ 0x0F) ∨ (0x11 ≤ op ∧ op ≤ 0x1F) ∨ (0x22 ≤ op ∧ op ≤ 0x2F) ∨
       (0x32 ≤ op ∧ op ≤ 0x3F) ∨ (0x42 ≤ op ∧ op ≤ 0x4F) ∨ (0x53 ≤ op ∧ op ≤ 0xFF) →
     ∀ s, Ready s → takeCommand w s =
       .next { s with fault := some .illegalOpcode, outputs := s.outputs ++ [.rsp 0xFFFFFFFF] })

/-- Rule R112: a listed operation code with a must-be-0 field that is not zero faults, and nothing else happens. -/
def Obligations.ReservedFieldFaults : Prop :=
  ∀ (w : Word) (o : Opcode) (s : State), Ready s → fieldOp w = opcodeByte o →
    ((usesA o = false ∧ fieldA w ≠ 0) ∨ (usesB o = false ∧ fieldB w ≠ 0) ∨ (usesC o = false ∧ fieldC w ≠ 0)) →
    takeCommand w s = .next { s with fault := some .reservedNonzero, outputs := s.outputs ++ [.rsp 0xFFFFFFFF] }

/-- Rule R130: the encoding of a textual form is its operation code and its operands, in the order of rule R113's
columns. -/
def Obligations.AssembledWordsPlaceOperands : Prop :=
  ∀ (op : Opcode) (operands : List Nat) (i : Instr), assemble op operands = some i →
    (op = .setTimeout → ∃ ms, operands = [ms] ∧ ms < 2 ^ 24 ∧ (encode i).toNat = 0x51 * 2 ^ 24 + ms) ∧
    (op ≠ .setTimeout → (encode i).toNat =
      (opcodeByte op).toNat * 2 ^ 24 + operands.getD 0 0 * 2 ^ 16 + operands.getD 1 0 * 2 ^ 8)

/-! ## The step -/

/-- A step with a command word at the head of the inputs runs the command it decodes to, on the state with that input
consumed. -/
def Obligations.StepRunsDecodedCommand : Prop :=
  ∀ (s : State) (w : Word) (rest : List Input) (i : Instr),
    s.cfg.wf = true → s.inputs = .command w :: rest → decode w = .ok i → step s = exec i { s with inputs := rest }

/-- Rule R9: an instance that breaks the constraint on the markers is refused, whatever its inputs; under the constraint
the two markers and their escaped forms are four distinct bytes. -/
def Obligations.IllFormedInstanceRefused : Prop :=
  (∀ s : State, ¬ (s.cfg.stx.toNat < 0x80 ∧ s.cfg.esc.toNat < 0x80 ∧ s.cfg.stx ≠ s.cfg.esc) →
    step s = .refused .illFormedConfig) ∧
  ∀ c : Config, c.stx.toNat < 0x80 ∧ c.esc.toNat < 0x80 ∧ c.stx ≠ c.esc →
    [c.stx, c.esc, c.stx ||| 0x80, c.esc ||| 0x80].Nodup

/-- With no input the CORE holds its state for any number of steps, in every mode. In mode `TX` this is the hang of rules
R84 and R310, and rule R309 ("While it waits for the transport it simply holds its state"). That a machine with no input
left steps to itself is the model's choice of log 2, and in mode `IDLE` the statement rests on that choice alone; that a
wait in mode `RX` may last for ever is log 9, since the transport's duty is not built into the machine. -/
def Obligations.WaitsWithoutInput : Prop :=
  ∀ (s : State) (n : Nat), s.cfg.wf = true → s.inputs = [] → run n s = .next s

/-- Every step from a state with the invariant, in a well-formed instance, has a next state: nothing stops the CORE. -/
def Obligations.EveryStepCompletes : Prop :=
  ∀ s : State, Inv s → s.cfg.wf = true → ∃ t, step s = .next t

/-- The invariant of Safety.lean is kept by every step. -/
def Obligations.StepKeepsInv : Prop := ∀ s t : State, Inv s → step s = .next t → Inv t

/-- The invariant holds after reset, for every configuration. -/
def Obligations.ResetHasInv : Prop := ∀ c : Config, Inv (State.resetWith c)

/-- The parameters of an instance never change, at reset or otherwise (rules R8, R330). -/
def Obligations.ParametersNeverChange : Prop := ∀ s t : State, step s = .next t → t.cfg = s.cfg

/-- The model's choice of log 4, resting on rules R75, R301 and R331: a transport event nothing waits for is dropped,
and adds nothing to `wire` (log 13). -/
def Obligations.UnawaitedEventDropped : Prop :=
  ∀ (s : State) (i : Input) (rest : List Input),
    s.cfg.wf = true → s.inputs = i :: rest → awaited s i = false → step s = .next { s with inputs := rest }

/-- Response bytes no RECV has delivered never show: two states that differ only in them step to states that differ only
in them, with the same outputs. -/
def Obligations.StaleResponseBytesNeverShow : Prop :=
  ∀ s t s' : State, Inv s → SameButStaleBytes s t → step s = .next s' →
    ∃ t', step t = .next t' ∧ SameButStaleBytes s' t'

/-! ## Reset -/

/-- Rule R49: the reset value of every piece of state. -/
def Obligations.ResetValues : Prop :=
  ∀ c : Config,
    let s := State.resetWith c
    s.crc = 0xFFFF ∧ s.escp = false ∧ s.timeout = 0x0003E8 ∧ s.fault = none ∧ busyFlag s.seq = false ∧
    s.result = .none ∧ statusWord s = 0x0000 ∧ (∀ i, pvalid s i = false) ∧ s.rlen = 0 ∧ s.rvalid = false ∧
    s.rxcount = 0 ∧ s.seq = .idle

/-- Rules R330 and R331: the reset input, in any state: every piece of the CORE's state takes its reset value, no
parameter changes, nothing is emitted, the bytes already on the wire stay there, and a transport answer that was still
pending is dropped. Two clauses rest on the model's choices: that the byte of an abandoned write is not counted as on the
wire (log 13), and that a transport event which comes after the reset is consumed with no effect (log 4). -/
def Obligations.ResetInputRestoresEverything : Prop :=
  ∀ (s : State) (rest : List Input), s.cfg.wf = true → s.inputs = .reset :: rest →
    ∃ t, step s = .next t ∧ t.crc = 0xFFFF ∧ t.escp = false ∧ t.timeout = 1000 ∧ statusWord t = 0x0000 ∧
      (∀ i, pvalid t i = false) ∧ t.rvalid = false ∧ t.rlen = 0 ∧ t.rxcount = 0 ∧ t.seq = .idle ∧ t.fault = none ∧
      t.result = .none ∧ t.cfg = s.cfg ∧ t.outputs = s.outputs ∧ t.wire = s.wire ∧ t.inputs = rest ∧
      ∀ (ev : Input) (rest' : List Input), rest = ev :: rest' →
        ((∃ ok, ev = .txAck ok) ∨ (∃ b, ev = .rxByte b) ∨ ev = .rxTimeout) → step t = .next { t with inputs := rest' }

/-! ## The CRC generator -/

/-- Rules R152 and R154: the words of CRC_INIT and CRC_READ, and what they do in a CORE that accepts commands. -/
def Obligations.CrcInitAndReadEffects : Prop :=
  encode .crcInit = 0x01#8 ++ 0#8 ++ 0#8 ++ 0#8 ∧ encode .crcRead = 0x03#8 ++ 0#8 ++ 0#8 ++ 0#8 ∧
  ∀ s : State, Ready s →
    exec .crcInit s = .next { s with crc := 0xFFFF, outputs := s.outputs ++ [.rsp 0x00000000] } ∧
    exec .crcRead s = .next { s with outputs := s.outputs ++ [.rsp (0#16 ++ s.crc)] }

/-- CRC_UPDATE (rule R153): its word, and, in a CORE that accepts commands, the new checksum in the register and in the
answer. -/
def Obligations.CrcUpdateEffect : Prop :=
  ∀ b : Byte, encode (.crcUpdate b) = 0x02#8 ++ b ++ 0#8 ++ 0#8 ∧
    ∀ s : State, Ready s → exec (.crcUpdate b) s = .next
      { s with crc := crcUpdate s.crc b, outputs := s.outputs ++ [.rsp (0#16 ++ crcUpdate s.crc b)] }

/-- The spec's own inference, marked "[derived: from rule R150]": the loop of rule R150 and the bitwise form of rule R151
agree, for every checksum and byte. The bitwise form is written out with its polynomial, 0x8005. -/
def Obligations.CrcFormsAgree : Prop :=
  ∀ (c : Crc) (b : Byte),
    crcUpdate c b = [7, 6, 5, 4, 3, 2, 1, 0].foldl
      (fun (s : Crc) (j : Nat) => (s <<< 1) ^^^ (if s.getLsbD 15 ^^ b.getLsbD j then 0x8005#16 else 0x0000#16)) c ∧
    crcUpdateByBits c b = crcUpdate c b

/-- CRC_BLOCK (rules R131, R155): issued to a CORE that accepts commands, it answers 0, the running checksums, and the
checksum of the block, and leaves that checksum in `CRC`. -/
def Obligations.CrcBlockAnswersChecksum : Prop :=
  ∀ (s : State) (bs : List Byte) (rest : List Input), Ready s → s.cfg.wf = true →
    s.inputs = commandInputs (crcBlock bs) ++ rest →
    run (bs.length + 2) s = .next
      { s with
        crc := crc16 bs
        inputs := rest
        outputs := s.outputs ++ .rsp 0 ::
          ((List.range bs.length).map (fun j => .rsp (0#16 ++ crc16 (bs.take (j + 1)))) ++ [.rsp (0#16 ++ crc16 bs)]) }

/-- Rule R157: the CRC commands touch no other state and emit no transport event. In a CORE that is busy the command fault
`BUSY` is all that happens, as for every command (rule R294); that it leaves `wire` without the byte of an abandoned write is
the model's choice (log 13). -/
def Obligations.CrcCommandsFrame : Prop :=
  ∀ (s t : State) (i : Instr), (i = .crcInit ∨ (∃ b, i = .crcUpdate b) ∨ i = .crcRead) → exec i s = .next t →
    (∃ w, t = { s with crc := t.crc, outputs := s.outputs ++ [.rsp w] }) ∨
    (s.seq ≠ .idle ∧ t = { s with fault := some .busy, seq := .idle, outputs := s.outputs ++ [.rsp 0xFFFFFFFF] })

/-! ## The stuffer and the unstuffer -/

/-- Rules R170, R171 and R122: STUFF, its word, and its answer in a CORE that accepts commands. -/
def Obligations.StuffEffect : Prop :=
  ∀ b : Byte, encode (.stuff b) = 0x10#8 ++ b ++ 0#8 ++ 0#8 ∧
    ∀ s : State, Ready s → exec (.stuff b) s = .next
      { s with outputs := s.outputs ++ [.rsp
          (if b = s.cfg.stx ∨ b = s.cfg.esc then 0x02#8 ++ 0x00#8 ++ s.cfg.esc ++ (b ||| 0x80)
           else 0x01#8 ++ 0x00#8 ++ b ++ 0x00#8)] }

/-- The spec's own inference, marked "[derived: from rule R170 and 00_scope.md rule R9]": the three properties rule R173
lists of a stuffed sequence. -/
def Obligations.StuffedSequenceShape : Prop :=
  ∀ (c : Config) (bs : List Byte), c.wf = true →
    c.stx ∉ stuffSeq c bs ∧
    (∀ j, (stuffSeq c bs)[j]? = some c.esc →
      (stuffSeq c bs)[j + 1]? = some (c.stx ||| 0x80) ∨ (stuffSeq c bs)[j + 1]? = some (c.esc ||| 0x80)) ∧
    (stuffSeq c bs).length = bs.length + bs.countP (fun b => b = c.stx ∨ b = c.esc)

/-- The spec's own inference, marked "[derived: from rules R170, R176 and R178]", and the source's property
"`unescape(escape(bytes)) == bytes`": unstuffing a stuffed sequence recovers it, for every sequence and every well-formed
configuration. -/
def Obligations.UnstuffOfStuff : Prop :=
  ∀ (c : Config) (bs : List Byte), c.wf = true → unstuffSeq c (stuffSeq c bs) = .ok bs

/-- Rules R175, R176 and R177 with the codes of rule R123: the words of UNSTUFF_RESET and UNSTUFF, and what they do in a
CORE that accepts commands, case by case. -/
def Obligations.UnstuffEffects : Prop :=
  encode .unstuffReset = 0x20#8 ++ 0#8 ++ 0#8 ++ 0#8 ∧
  (∀ w : Byte, encode (.unstuff w) = 0x21#8 ++ w ++ 0#8 ++ 0#8) ∧
  ∀ (s : State) (w : Byte), Ready s →
    exec .unstuffReset s = .next { s with escp := false, outputs := s.outputs ++ [.rsp 0x00000000] } ∧
    exec (.unstuff w) s = .next
      (if s.escp = false then
        if w = s.cfg.stx then { s with escp := false, outputs := s.outputs ++ [.rsp 0x00000200] }
        else if w = s.cfg.esc then { s with escp := true, outputs := s.outputs ++ [.rsp 0x00000100] }
        else { s with escp := false, outputs := s.outputs ++ [.rsp (0x000000#24 ++ w)] }
      else
        if w = s.cfg.stx then { s with escp := false, outputs := s.outputs ++ [.rsp 0x00000201] }
        else if w = s.cfg.esc ||| 0x80 then
          { s with escp := false, outputs := s.outputs ++ [.rsp (0x000000#24 ++ s.cfg.esc)] }
        else if w = s.cfg.stx ||| 0x80 then
          { s with escp := false, outputs := s.outputs ++ [.rsp (0x000000#24 ++ s.cfg.stx)] }
        else { s with escp := false, outputs := s.outputs ++ [.rsp (0x000003#24 ++ w)] })

/-- The unstuffer as a machine (rules R177, R179): giving the bytes of a stuffed sequence to UNSTUFF, one command each,
answers DATA values that spell the original sequence, and no START or BAD_ESCAPE; nothing but `ESCP` is touched, and no
escape is left pending. -/
def Obligations.UnstuffCommandsRecoverBytes : Prop :=
  ∀ (s : State) (bs : List Byte) (rest : List Input), Ready s → s.cfg.wf = true → s.escp = false →
    s.inputs = commandInputs ((stuffSeq s.cfg bs).map .unstuff) ++ rest →
    ∃ ws : List Word,
      run (stuffSeq s.cfg bs).length s = .next
        { s with inputs := rest, outputs := s.outputs ++ ws.map .rsp } ∧
      ws.length = (stuffSeq s.cfg bs).length ∧ dataValues ws = bs ∧
      ∀ w ∈ ws, w.extractLsb' 8 8 = 0#8 ∨ w.extractLsb' 8 8 = 1#8

/-- Rule R181: the stuffer and unstuffer commands touch nothing but `ESCP`, and neither the commands nor the transport
events of an exchange write `ESCP`. In a CORE that is busy the command fault `BUSY` is all that happens, as for every
command (rule R294); that it leaves `wire` without the byte of an abandoned write is the model's choice (log 13), and
so is that a transport event nothing waits for changes nothing (log 4). -/
def Obligations.StufferAndExchangesKeepApart : Prop :=
  (∀ (s t : State) (i : Instr), ((∃ b, i = .stuff b) ∨ i = .unstuffReset ∨ ∃ w, i = .unstuff w) → exec i s = .next t →
    (∃ r, t = { s with escp := t.escp, outputs := s.outputs ++ [.rsp r] }) ∨
    (s.seq ≠ .idle ∧ t = { s with fault := some .busy, seq := .idle, outputs := s.outputs ++ [.rsp 0xFFFFFFFF] })) ∧
  (∀ (s t : State) (cmd n len : Byte), exec (.send cmd n) s = .next t ∨ exec (.recv len) s = .next t →
    t.escp = s.escp) ∧
  ∀ (s t : State) (ok : Bool) (b : Byte),
    takeInput (.txAck ok) s = .next t ∨ takeInput (.rxByte b) s = .next t ∨ takeInput .rxTimeout s = .next t →
    t.escp = s.escp

/-! ## The frame encoder -/

/-- Rule R201: PLOAD, its word; in a CORE that accepts commands it writes one parameter and its valid bit and no other,
or faults `INDEX_RANGE`. -/
def Obligations.PloadEffect : Prop :=
  (∀ idx v : Byte, encode (.pload idx v) = 0x30#8 ++ idx ++ v ++ 0#8) ∧
  ∀ (s : State) (idx v : Byte), Ready s →
    (idx.toNat < 254 →
      ∃ t, exec (.pload idx v) s = .next t ∧ t.pbuf.read idx.toNat = some v ∧ pvalid t idx.toNat = true ∧
        (∀ j, j ≠ idx.toNat → t.pbuf.read j = s.pbuf.read j ∧ pvalid t j = pvalid s j) ∧
        t = { s with pbuf := t.pbuf, outputs := s.outputs ++ [.rsp 0x00000000] }) ∧
    (254 ≤ idx.toNat → exec (.pload idx v) s = .next
      { s with fault := some .indexRange, outputs := s.outputs ++ [.rsp 0xFFFFFFFF] })

/-- Rules R207, R208 and R209: the acceptance step of SEND in a CORE that accepts commands. 255 parameters complete with
`PARAM_INVALID`; an unwritten one faults; otherwise the body is captured, `CRC` is 0xFFFF, and `STX` is offered raw. -/
def Obligations.SendAcceptance : Prop :=
  ∀ (s : State) (cmd n : Byte), Ready s →
    (255 ≤ n.toNat → exec (.send cmd n) s = .next
      { s with result := .paramInvalid, outputs := s.outputs ++ [.rsp 0x00000005] }) ∧
    (n.toNat ≤ 254 → (∃ j < n.toNat, pvalid s j = false) → exec (.send cmd n) s = .next
      { s with fault := some .unwrittenParam, outputs := s.outputs ++ [.rsp 0xFFFFFFFF] }) ∧
    (n.toNat ≤ 254 → ∀ ps : List Byte, ps.length = n.toNat → (∀ j < n.toNat, s.pbuf.read j = ps[j]?) →
      exec (.send cmd n) s = .next
        { s with
          crc := 0xFFFF
          seq := .tx ([0x00, 1 + n, cmd] ++ ps) 0 [s.cfg.stx]
          outputs := s.outputs ++ [.txWrite s.cfg.stx] })

/-- Rule R214 with rules R212 and R213: what `TxAck(true)` does in mode `TX`, at every item. -/
def Obligations.AcknowledgedWriteAdvances : Prop :=
  ∀ (s : State) (rest : List Input) (body : List Byte) (k : Nat) (w : Byte) (more : List Byte),
    s.cfg.wf = true → s.inputs = .txAck true :: rest → s.seq = .tx body k (w :: more) →
    (∀ w' more', more = w' :: more' → step s = .next
      { s with inputs := rest, wire := s.wire ++ [w], seq := .tx body k more,
               outputs := s.outputs ++ [.txWrite w'] }) ∧
    (more = [] → k = body.length + 2 → step s = .next
      { s with inputs := rest, wire := s.wire ++ [w], seq := .idle, result := .ok,
               outputs := s.outputs ++ [.rsp 0x00000001] }) ∧
    (more = [] → ∀ x, body[k]? = some x → step s = .next
      { s with inputs := rest, wire := s.wire ++ [w], crc := crcUpdate s.crc x,
               seq := .tx body (k + 1) (stuff s.cfg x),
               outputs := s.outputs ++ [.txWrite (if x = s.cfg.stx ∨ x = s.cfg.esc then s.cfg.esc else x)] }) ∧
    (more = [] → ∀ x, (k = body.length ∧ x = s.crc.extractLsb' 8 8) ∨
        (k = body.length + 1 ∧ x = s.crc.extractLsb' 0 8) → step s = .next
      { s with inputs := rest, wire := s.wire ++ [w],
               seq := .tx body (k + 1) (stuff s.cfg x),
               outputs := s.outputs ++ [.txWrite (if x = s.cfg.stx ∨ x = s.cfg.esc then s.cfg.esc else x)] })

/-- Rule R215: `TxAck(false)` in mode `TX`, at any item and either byte of a pair, ends the SEND at once; no wire byte is
offered and none is taken back. -/
def Obligations.FailedWriteEndsSend : Prop :=
  ∀ (s : State) (rest : List Input) (body : List Byte) (k : Nat) (pend : List Byte),
    s.cfg.wf = true → s.inputs = .txAck false :: rest → s.seq = .tx body k pend → step s = .next
      { s with inputs := rest, seq := .idle, result := .writeError, outputs := s.outputs ++ [.rsp 0x00000002] }

/-- Rule R210: a SEND of written parameters whose every wire byte is acknowledged puts exactly `frameWire(cmd, P)` on the
wire, in that order, one byte offered at a time, and completes `OK` with the frame's checksum in `CRC`. -/
def Obligations.SendPutsFrameOnWire : Prop :=
  ∀ (s : State) (cmd : Byte) (ps : List Byte) (rest : List Input),
    Ready s → s.cfg.wf = true → ps.length ≤ 254 → (∀ j < ps.length, s.pbuf.read j = ps[j]?) →
    s.inputs = .command (encode (.send cmd (BitVec.ofNat 8 ps.length))) ::
      (List.replicate (frameWire s.cfg cmd ps).length (.txAck true) ++ rest) →
    run (1 + (frameWire s.cfg cmd ps).length) s = .next
      { s with
        crc := crc16 ([0x00, BitVec.ofNat 8 (1 + ps.length), cmd] ++ ps)
        result := .ok
        inputs := rest
        outputs := s.outputs ++ (frameWire s.cfg cmd ps).map .txWrite ++ [.rsp 0x00000001]
        wire := s.wire ++ frameWire s.cfg cmd ps }

/-- FRAME (rules R131, R210, R219): loading `P` and sending it puts `frameWire(cmd, P)` on the wire from any CORE that
accepts commands, whatever `PBUF` held before. -/
def Obligations.FrameCommandsPutFrameOnWire : Prop :=
  ∀ (s : State) (cmd : Byte) (ps : List Byte) (rest : List Input),
    Ready s → s.cfg.wf = true → ps.length ≤ 254 →
    s.inputs = commandInputs (frameCommands cmd ps) ++
      (List.replicate (frameWire s.cfg cmd ps).length (.txAck true) ++ rest) →
    ∃ t, run (ps.length + 1 + (frameWire s.cfg cmd ps).length) s = .next t ∧
      t.wire = s.wire ++ frameWire s.cfg cmd ps ∧ t.result = .ok ∧ Ready t ∧ t.inputs = rest ∧
      responses t.outputs = responses s.outputs ++ List.replicate ps.length 0 ++ [0x00000001]

/-- Rules R211, R213 and R215, and what the spec infers from them ("after `WRITE_ERROR` at item `k`"): a SEND whose write
fails while item `k` is being sent leaves on the wire
the bytes acknowledged before, and in `CRC` the checksum of the body bytes whose items have started. -/
def Obligations.FailedSendKeepsPartialChecksum : Prop :=
  ∀ (s : State) (cmd : Byte) (ps : List Byte) (rest : List Input) (k r : Nat),
    let body := [0x00, BitVec.ofNat 8 (1 + ps.length), cmd] ++ ps
    let sent := ((List.range k).map (itemWire s.cfg body)).flatten ++ (itemWire s.cfg body k).take r
    Ready s → s.cfg.wf = true → ps.length ≤ 254 → (∀ j < ps.length, s.pbuf.read j = ps[j]?) →
    k ≤ ps.length + 5 → r < (itemWire s.cfg body k).length →
    s.inputs = .command (encode (.send cmd (BitVec.ofNat 8 ps.length))) ::
      (List.replicate sent.length (.txAck true) ++ .txAck false :: rest) →
    ∃ t, run (sent.length + 2) s = .next t ∧
      t.result = .writeError ∧ t.seq = .idle ∧ t.wire = s.wire ++ sent ∧
      t.crc = crc16 (body.take (min k (ps.length + 3))) ∧ t.inputs = rest ∧ t.pbuf = s.pbuf ∧ t.fault = none

/-- What the spec infers from rules R209 and R210, with rule R222: the same SEND twice, all writes acknowledged, puts two
byte-identical frames on the wire, with
nothing between them. -/
def Obligations.SameSendSameBytes : Prop :=
  ∀ (s : State) (cmd : Byte) (ps : List Byte) (rest : List Input),
    let once := Input.command (encode (.send cmd (BitVec.ofNat 8 ps.length))) ::
      List.replicate (frameWire s.cfg cmd ps).length (Input.txAck true)
    Ready s → s.cfg.wf = true → ps.length ≤ 254 → (∀ j < ps.length, s.pbuf.read j = ps[j]?) →
    s.inputs = once ++ once ++ rest →
    ∃ t, run (2 * once.length) s = .next t ∧
      t.wire = s.wire ++ frameWire s.cfg cmd ps ++ frameWire s.cfg cmd ps

/-- Rules R218 and R219: a frame starts with `STX`, raw, which occurs nowhere else in it; unstuffing the rest gives the
length field `0x00, 1 + n`, the command, the parameters, and the big-endian checksum of exactly those bytes. -/
def Obligations.FrameShape : Prop :=
  ∀ (c : Config) (cmd : Byte) (ps : List Byte), c.wf = true → ps.length ≤ 254 →
    ∃ tail, frameWire c cmd ps = c.stx :: tail ∧ c.stx ∉ tail ∧
      (let body := [0x00, BitVec.ofNat 8 (1 + ps.length), cmd] ++ ps
       unstuffSeq c tail = .ok (body ++ [(crc16 body).extractLsb' 8 8, (crc16 body).extractLsb' 0 8]))

/-- The spec's own inference, marked "[derived: from 42_encoder.md rule R210 and 41_stuffing.md rule R170]": a frame's
length on the wire, and when each bound is met. -/
def Obligations.FrameWireLength : Prop :=
  ∀ (c : Config) (cmd : Byte) (ps : List Byte),
    let body := [0x00, BitVec.ofNat 8 (1 + ps.length), cmd] ++ ps
    let logical := body ++ [(crc16 body).extractLsb' 8 8, (crc16 body).extractLsb' 0 8]
    let n := ps.length
    n + 6 ≤ (frameWire c cmd ps).length ∧ (frameWire c cmd ps).length ≤ 2 * n + 11 ∧
    ((frameWire c cmd ps).length = n + 6 ↔ ∀ b ∈ logical, b ≠ c.stx ∧ b ≠ c.esc) ∧
    ((frameWire c cmd ps).length = 2 * n + 11 ↔ ∀ b ∈ logical, b = c.stx ∨ b = c.esc)

/-- Two frames that look the same on the wire carry the same command byte and parameters. -/
def Obligations.FrameDeterminesCommand : Prop :=
  ∀ (c : Config) (cmd cmd' : Byte) (ps ps' : List Byte), c.wf = true → ps.length ≤ 254 → ps'.length ≤ 254 →
    frameWire c cmd ps = frameWire c cmd' ps' → cmd = cmd' ∧ ps = ps'

/-- Rules R43, R83 and R92: in a step of a SEND in progress that leaves it in progress, the captured body stays, the item
index stays or goes up by one, `PBUF` is not written, and the wire grows by nothing or by the byte that was outstanding
and is acknowledged. That an `RxByte` or `RxTimeout`, which nothing waits for in mode `TX`, changes nothing is the model's
choice (log 4). -/
def Obligations.SendInProgressStep : Prop :=
  ∀ (s t : State) (body body' : List Byte) (k k' : Nat) (w : Byte) (more pend' : List Byte),
    step s = .next t → s.seq = .tx body k (w :: more) → t.seq = .tx body' k' pend' →
    body' = body ∧ (k' = k ∨ k' = k + 1) ∧ t.pbuf = s.pbuf ∧
      (t.wire = s.wire ∨ (t.wire = s.wire ++ [w] ∧ s.inputs.head? = some (.txAck true)))

/-- Rule R83: no step takes a byte back from the wire. -/
def Obligations.WireIsNeverRetracted : Prop := ∀ s t : State, step s = .next t → s.wire <+: t.wire

/-! ## The frame decoder -/

/-- Rules R242 and R243: the acceptance step of RECV in a CORE that accepts commands. A length of 0 completes `OK` at
once; any other asks the transport for that many bytes under the value `TIMEOUT` has now. -/
def Obligations.RecvAcceptance : Prop :=
  ∀ (s : State) (len : Byte), Ready s →
    (len = 0 → exec (.recv len) s = .next
      { s with rvalid := true, rlen := 0, rxcount := 0, result := .ok, outputs := s.outputs ++ [.rsp 0x00000001] }) ∧
    (len ≠ 0 → exec (.recv len) s = .next
      { s with rvalid := false, rxcount := 0, seq := .rx len,
               outputs := s.outputs ++ [.rxRequest len s.timeout] })

/-- Rules R241, R244 and R245: a RECV whose bytes all arrive stores them in order, classifies them, and answers the count
and the result; only an `OK` response becomes readable. -/
def Obligations.RecvReceivesResponse : Prop :=
  ∀ (s : State) (len : Byte) (bs : List Byte) (rest : List Input),
    Ready s → s.cfg.wf = true → len ≠ 0 → bs.length = len.toNat →
    s.inputs = .command (encode (.recv len)) :: (bs.map .rxByte ++ rest) →
    ∃ t, run (1 + bs.length) s = .next t ∧
      (let rejected := 4 ≤ bs.length ∧ bs[3]? = some s.cfg.nak
       (rejected → t.result = .deviceRejected ∧ t.rvalid = false ∧ t.rlen = s.rlen ∧
         t.outputs = s.outputs ++ [.rxRequest len s.timeout, .rsp (0#16 ++ len ++ 0x04#8)]) ∧
       (¬ rejected → t.result = .ok ∧ t.rvalid = true ∧ t.rlen = len ∧
         t.outputs = s.outputs ++ [.rxRequest len s.timeout, .rsp (0#16 ++ len ++ 0x01#8)])) ∧
      (∀ j < bs.length, t.rbuf.read j = bs[j]?) ∧ (∀ j, bs.length ≤ j → t.rbuf.read j = s.rbuf.read j) ∧
      t = { s with result := t.result, rvalid := t.rvalid, rlen := t.rlen, rbuf := t.rbuf, rxcount := len,
                   inputs := rest, outputs := t.outputs }

/-- Rules R246 and R248: a RECV cut short ends with `READ_TIMEOUT` and the number of bytes that came, whatever they are,
a sentinel at index 3 included; the bytes that came stay in `RBUF`, and the response is not readable. -/
def Obligations.RecvCutShortTimesOut : Prop :=
  ∀ (s : State) (len : Byte) (bs : List Byte) (rest : List Input),
    Ready s → s.cfg.wf = true → bs.length < len.toNat →
    s.inputs = .command (encode (.recv len)) :: (bs.map .rxByte ++ .rxTimeout :: rest) →
    ∃ t, run (bs.length + 2) s = .next t ∧
      t = { s with result := .readTimeout, rvalid := false, rxcount := BitVec.ofNat 8 bs.length, rbuf := t.rbuf,
                   inputs := rest,
                   outputs := s.outputs ++
                     [.rxRequest len s.timeout, .rsp (0#16 ++ BitVec.ofNat 8 bs.length ++ 0x03#8)] } ∧
      (∀ j < bs.length, t.rbuf.read j = bs[j]?) ∧ ∀ j, bs.length ≤ j → t.rbuf.read j = s.rbuf.read j

/-- Rules R85 and R310: a RECV in progress whose transport does its duty ends, after exactly that transport's events. -/
def Obligations.RecvEnds : Prop :=
  ∀ (s : State) (len : Byte) (evs rest : List Input),
    s.cfg.wf = true → s.seq = .rx len → s.rxcount.toNat < len.toNat →
    EndsRead (len.toNat - s.rxcount.toNat) evs → s.inputs = evs ++ rest →
    ∃ t, run evs.length s = .next t ∧ t.seq = .idle ∧ t.inputs = rest

/-- Rule R247: RREAD, its word, and what it does in a CORE that accepts commands. -/
def Obligations.RreadEffect : Prop :=
  (∀ idx : Byte, encode (.rread idx) = 0x41#8 ++ idx ++ 0#8 ++ 0#8) ∧
  ∀ (s : State) (idx : Byte), Ready s →
    (s.rvalid = false → exec (.rread idx) s = .next
      { s with fault := some .noResponse, outputs := s.outputs ++ [.rsp 0xFFFFFFFF] }) ∧
    (s.rvalid = true → s.rlen.toNat ≤ idx.toNat → exec (.rread idx) s = .next
      { s with fault := some .indexRange, outputs := s.outputs ++ [.rsp 0xFFFFFFFF] }) ∧
    (s.rvalid = true → idx.toNat < s.rlen.toNat → ∀ b, s.rbuf.read idx.toNat = some b →
      exec (.rread idx) s = .next { s with outputs := s.outputs ++ [.rsp (0#24 ++ b)] })

/-- Rules R206 and R242, "It does not write", and rule R70, "SEND only" in its row for the transmit channel: what an
exchange leaves alone, in its commands and in its transport events. Two clauses rest on the model's choices: that a RECV
given in mode `TX`, which faults `BUSY`, leaves `wire` without the byte of the SEND it abandons (log 13), and that a
transport event nothing waits for changes nothing (log 4). -/
def Obligations.ExchangeFrames : Prop :=
  (∀ (s t : State) (cmd n : Byte) (ok : Bool),
    exec (.send cmd n) s = .next t ∨ takeInput (.txAck ok) s = .next t →
    t.pbuf = s.pbuf ∧ t.rbuf = s.rbuf ∧ t.rlen = s.rlen ∧ t.rvalid = s.rvalid ∧ t.rxcount = s.rxcount ∧
    t.timeout = s.timeout ∧ t.escp = s.escp) ∧
  ∀ (s t : State) (len b : Byte),
    exec (.recv len) s = .next t ∨ takeInput (.rxByte b) s = .next t ∨ takeInput .rxTimeout s = .next t →
    t.crc = s.crc ∧ t.escp = s.escp ∧ t.pbuf = s.pbuf ∧ t.timeout = s.timeout ∧ t.wire = s.wire

/-! ## Control and status -/

/-- Rules R34, R36 and R293: the layout of STATUS, and the number of each fault code. -/
def Obligations.StatusLayout : Prop :=
  ∀ s : State,
    (statusWord s).extractLsb' 8 8 = faultField s.fault ∧
    ((statusWord s).getLsbD 7 = true ↔ s.seq ≠ .idle) ∧
    (statusWord s).extractLsb' 3 4 = 0#4 ∧
    (statusWord s).extractLsb' 0 3 = resultBits s.result ∧
    (faultField s.fault).toNat ≤ 6 ∧ (resultBits s.result).toNat ≤ 5 ∧
    faultField none = 0 ∧ faultField (some .illegalOpcode) = 1 ∧ faultField (some .reservedNonzero) = 2 ∧
    faultField (some .indexRange) = 3 ∧ faultField (some .unwrittenParam) = 4 ∧ faultField (some .busy) = 5 ∧
    faultField (some .noResponse) = 6 ∧
    resultBits .none = 0 ∧ resultBits .ok = 1 ∧ resultBits .writeError = 2 ∧ resultBits .readTimeout = 3 ∧
    resultBits .deviceRejected = 4 ∧ resultBits .paramInvalid = 5

/-- STATUS_READ (rules R270, R126) whenever no exchange is in progress, faulted or not. -/
def Obligations.StatusReadEffect : Prop :=
  ∀ s : State, s.seq = .idle →
    exec .statusRead s = .next
      { s with outputs := s.outputs ++ [.rsp (0#16 ++ faultField s.fault ++ 0#5 ++ resultBits s.result)] }

/-- Rules R272 and R274: the words of SET_TIMEOUT and TIMEOUT_READ, and what they do in a CORE that accepts commands. -/
def Obligations.TimeoutCommandsEffects : Prop :=
  (∀ ms : Millis, encode (.setTimeout ms) = 0x51#8 ++ ms) ∧ encode .timeoutRead = 0x52#8 ++ 0#8 ++ 0#8 ++ 0#8 ∧
  ∀ (s : State) (ms : Millis), Ready s →
    exec (.setTimeout ms) s = .next { s with timeout := ms, outputs := s.outputs ++ [.rsp 0x00000000] } ∧
    exec .timeoutRead s = .next { s with outputs := s.outputs ++ [.rsp (0#8 ++ s.timeout)] }

/-! ## Results and faults -/

/-- Rules R294, R271 and R114 case 2: any command word at all, issued to a busy CORE, faults `BUSY`; the exchange is
abandoned with no completion, and `RESULT` is unchanged. That the byte of the abandoned write is not added to `wire` is the
model's choice (log 13). -/
def Obligations.CommandWhileBusyFaults : Prop :=
  ∀ (s : State) (w : Word) (rest : List Input),
    s.cfg.wf = true → s.inputs = .command w :: rest → s.fault = none → s.seq ≠ .idle → step s = .next
      { s with inputs := rest, fault := some .busy, seq := .idle, outputs := s.outputs ++ [.rsp 0xFFFFFFFF] }

/-- Rule R301: what the faulted state does with every input but reset. The premise that nothing is in progress holds in
every reachable state (`Inv`). That a dropped `TxAck(true)`, the answer to an abandoned write, leaves `wire` as it is is the
model's choice (log 13), as is that the event is consumed (log 4). -/
def Obligations.FaultedStateIsQuiescent : Prop :=
  ∀ (s : State) (i : Input) (rest : List Input),
    s.cfg.wf = true → s.fault ≠ none → s.seq = .idle → s.inputs = i :: rest →
    (∀ w, i = .command w → w ≠ 0x50000000 → step s = .next
      { s with inputs := rest, outputs := s.outputs ++ [.rsp 0xFFFFFFFF] }) ∧
    (i = .command 0x50000000 → step s = .next
      { s with inputs := rest,
               outputs := s.outputs ++ [.rsp (0#16 ++ faultField s.fault ++ 0#5 ++ resultBits s.result)] }) ∧
    ((∃ ok, i = .txAck ok) ∨ (∃ b, i = .rxByte b) ∨ i = .rxTimeout → step s = .next { s with inputs := rest })

/-- Rule R302: only reset leaves the faulted state, and until then the first code is kept. -/
def Obligations.OnlyResetLeavesFault : Prop :=
  ∀ (s t : State) (c : FaultCode), Inv s → s.fault = some c → step s = .next t → s.inputs.head? ≠ some .reset →
    t.fault = some c

/-- Rules R299 and R300: a step that enters the faulted state changes nothing but what fault entry changes, and answers
`0xFFFFFFFF`. That a `BUSY` fault out of mode `TX` leaves `wire` without the byte of the abandoned write is the model's choice
(log 13). -/
def Obligations.FaultEntryIsPrecise : Prop :=
  ∀ (s t : State) (c : FaultCode), s.fault = none → step s = .next t → t.fault = some c →
    t = { s with inputs := s.inputs.tail, fault := some c, seq := .idle,
                 outputs := s.outputs ++ [.rsp 0xFFFFFFFF] }

/-- Rule R293: what raises each fault code. -/
def Obligations.FaultCauses : Prop :=
  ∀ (s t : State) (c : FaultCode), s.fault = none → step s = .next t → t.fault = some c →
    ∃ w, s.inputs.head? = some (.command w) ∧
      (c = .busy → s.seq ≠ .idle) ∧
      (c = .illegalOpcode → ∀ o, fieldOp w ≠ opcodeByte o) ∧
      (c = .reservedNonzero → ∃ o, fieldOp w = opcodeByte o ∧
        ((usesA o = false ∧ fieldA w ≠ 0) ∨ (usesB o = false ∧ fieldB w ≠ 0) ∨ (usesC o = false ∧ fieldC w ≠ 0))) ∧
      (c = .indexRange → (fieldOp w = 0x30 ∧ 254 ≤ (fieldA w).toNat) ∨
        (fieldOp w = 0x41 ∧ s.rlen.toNat ≤ (fieldA w).toNat)) ∧
      (c = .unwrittenParam → fieldOp w = 0x31 ∧ ∃ j < (fieldB w).toNat, pvalid s j = false) ∧
      (c = .noResponse → fieldOp w = 0x41 ∧ s.rvalid = false)

/-- Rule R127: a step adds to the outputs, and a response word it adds is `0xFFFFFFFF` in the faulted state, or has 0, 1 or
2 in its top byte. -/
def Obligations.FaultAnswerIsUnambiguous : Prop :=
  ∀ s t : State, step s = .next t →
    ∃ new, t.outputs = s.outputs ++ new ∧
      ∀ w, Output.rsp w ∈ new → (w = 0xFFFFFFFF ∧ t.fault ≠ none) ∨ (w.extractLsb' 24 8).toNat ≤ 2

/-- Rule R120: a command accepted by an idle CORE is answered exactly once in the same step unless it starts an exchange,
and an exchange answers exactly once, in the step that completes it. That an event the exchange does not wait for is answered by
nothing and leaves it in progress is the model's choice (log 4). -/
def Obligations.OneResponsePerCommand : Prop :=
  (∀ (s t : State) (i : Instr), Ready s → exec i s = .next t →
    (t.seq = .idle ∧ ∃ w, responses t.outputs = responses s.outputs ++ [w]) ∨
      (t.seq ≠ .idle ∧ ((∃ cmd n, i = .send cmd n) ∨ ∃ len, i = .recv len) ∧
        responses t.outputs = responses s.outputs)) ∧
  ∀ (s t : State) (i : Input), s.seq ≠ .idle →
    (∃ ok, i = .txAck ok) ∨ (∃ b, i = .rxByte b) ∨ i = .rxTimeout → takeInput i s = .next t →
    (t.seq = .idle ∧ ∃ w, responses t.outputs = responses s.outputs ++ [w]) ∨
      (t.seq ≠ .idle ∧ responses t.outputs = responses s.outputs)

/-- Rule R35, its last sentence and its first row: only SEND and RECV write `RESULT`, and only reset writes `NONE`. -/
def Obligations.OnlyExchangesWriteResult : Prop :=
  (∀ (s t : State) (i : Instr), (∀ cmd n, i ≠ .send cmd n) → (∀ len, i ≠ .recv len) → exec i s = .next t →
    t.result = s.result) ∧
  ∀ s t : State, step s = .next t → t.result = .none → s.result = .none ∨ s.inputs.head? = some .reset

/-! ## The host's layer -/

/-- Rules R15, R16 and R18: every operation the host does not reject is the FRAME of the operation's own command byte and
parameters, at most 254 of them, so its SEND never ends in `PARAM_INVALID`; a text of more than 254 bytes is rejected, and
nothing else is; every operation but factory reset expects 6 bytes, or 12 for the version. After the FRAME comes the RECV
of that length, only if the SEND's result is `OK`, and none for factory reset; and the outcome is the first failure: the
host's own rejection, else the SEND's result if it is not `OK`, else the RECV's if one is issued. -/
def Obligations.HostOperationsFit : Prop :=
  ∀ c : CommandBytes,
    hostFrame c .version = some (frameCommands c.version []) ∧
    (∀ text : List Byte, text.length ≤ 254 →
      hostFrame c (.displayText text) = some (frameCommands c.displayText text) ∧
      hostFrame c (.storeText text) = some (frameCommands c.storeText text)) ∧
    (∀ text : List Byte, 254 < text.length →
      hostFrame c (.displayText text) = none ∧ hostFrame c (.storeText text) = none) ∧
    (∀ speed : Byte, hostFrame c (.setSpeed speed) = some (frameCommands c.setSpeed [speed])) ∧
    (∀ rows : Vector Byte 8, hostFrame c (.displayPattern rows) = some (frameCommands c.displayPattern rows.toList)) ∧
    (∀ (rows : Vector Byte 8) (delay : Byte),
      hostFrame c (.storeFirstFrame rows delay) = some (frameCommands c.storeFirstFrame (rows.toList ++ [delay])) ∧
      hostFrame c (.storeNextFrame rows delay) = some (frameCommands c.storeNextFrame (rows.toList ++ [delay]))) ∧
    hostFrame c .setMode = some (frameCommands c.setMode []) ∧
    hostFrame c .factoryReset = some (frameCommands c.factoryReset []) ∧
    ∀ op : HostOp,
      (∀ is, hostFrame c op = some is → ∃ cmd ps, is = frameCommands cmd ps ∧ ps.length ≤ 254) ∧
      ((hostTriple c op).2.2 = none ↔ op = .factoryReset) ∧
      (∀ len, (hostTriple c op).2.2 = some len → len = if op = .version then 12 else 6) ∧
      (∀ r, hostFollowUp c op r =
        if r = .ok ∧ op ≠ .factoryReset then [.recv (if op = .version then 12 else 6)] else []) ∧
      (hostFrame c op = none → ∀ sent received, hostOutcome c op sent received = .paramInvalid) ∧
      (hostFrame c op ≠ none →
        (∀ sent received, sent ≠ .ok → hostOutcome c op sent received = sent) ∧
        ∀ received, hostOutcome c op .ok received = if op = .factoryReset then .ok else received)
end

