-- ==== Sys2Proof/Laws/State.lean ====
section
/-! SUPPORT. One lemma per field of State for each shared operation, true by rfl: a later proof cites these and unfolds no
record update. -/

namespace Sys2Proof.Machine

@[simp] theorem emit_cfg (o : Output) (s : State) : (emit o s).cfg = s.cfg := rfl
@[simp] theorem emit_crc (o : Output) (s : State) : (emit o s).crc = s.crc := rfl
@[simp] theorem emit_escp (o : Output) (s : State) : (emit o s).escp = s.escp := rfl
@[simp] theorem emit_timeout (o : Output) (s : State) : (emit o s).timeout = s.timeout := rfl
@[simp] theorem emit_fault (o : Output) (s : State) : (emit o s).fault = s.fault := rfl
@[simp] theorem emit_result (o : Output) (s : State) : (emit o s).result = s.result := rfl
@[simp] theorem emit_pbuf (o : Output) (s : State) : (emit o s).pbuf = s.pbuf := rfl
@[simp] theorem emit_rbuf (o : Output) (s : State) : (emit o s).rbuf = s.rbuf := rfl
@[simp] theorem emit_rlen (o : Output) (s : State) : (emit o s).rlen = s.rlen := rfl
@[simp] theorem emit_rvalid (o : Output) (s : State) : (emit o s).rvalid = s.rvalid := rfl
@[simp] theorem emit_rxcount (o : Output) (s : State) : (emit o s).rxcount = s.rxcount := rfl
@[simp] theorem emit_seq (o : Output) (s : State) : (emit o s).seq = s.seq := rfl
@[simp] theorem emit_inputs (o : Output) (s : State) : (emit o s).inputs = s.inputs := rfl
@[simp] theorem emit_outputs (o : Output) (s : State) : (emit o s).outputs = s.outputs ++ [o] := rfl
@[simp] theorem emit_wire (o : Output) (s : State) : (emit o s).wire = s.wire := rfl

@[simp] theorem respond_cfg (w : Word) (s : State) : (respond w s).cfg = s.cfg := rfl
@[simp] theorem respond_crc (w : Word) (s : State) : (respond w s).crc = s.crc := rfl
@[simp] theorem respond_escp (w : Word) (s : State) : (respond w s).escp = s.escp := rfl
@[simp] theorem respond_timeout (w : Word) (s : State) : (respond w s).timeout = s.timeout := rfl
@[simp] theorem respond_fault (w : Word) (s : State) : (respond w s).fault = s.fault := rfl
@[simp] theorem respond_result (w : Word) (s : State) : (respond w s).result = s.result := rfl
@[simp] theorem respond_pbuf (w : Word) (s : State) : (respond w s).pbuf = s.pbuf := rfl
@[simp] theorem respond_rbuf (w : Word) (s : State) : (respond w s).rbuf = s.rbuf := rfl
@[simp] theorem respond_rlen (w : Word) (s : State) : (respond w s).rlen = s.rlen := rfl
@[simp] theorem respond_rvalid (w : Word) (s : State) : (respond w s).rvalid = s.rvalid := rfl
@[simp] theorem respond_rxcount (w : Word) (s : State) : (respond w s).rxcount = s.rxcount := rfl
@[simp] theorem respond_seq (w : Word) (s : State) : (respond w s).seq = s.seq := rfl
@[simp] theorem respond_inputs (w : Word) (s : State) : (respond w s).inputs = s.inputs := rfl
@[simp] theorem respond_outputs (w : Word) (s : State) : (respond w s).outputs = s.outputs ++ [.rsp w] := rfl
@[simp] theorem respond_wire (w : Word) (s : State) : (respond w s).wire = s.wire := rfl

@[simp] theorem raiseFault_cfg (c : FaultCode) (s : State) : (raiseFault c s).cfg = s.cfg := rfl
@[simp] theorem raiseFault_crc (c : FaultCode) (s : State) : (raiseFault c s).crc = s.crc := rfl
@[simp] theorem raiseFault_escp (c : FaultCode) (s : State) : (raiseFault c s).escp = s.escp := rfl
@[simp] theorem raiseFault_timeout (c : FaultCode) (s : State) : (raiseFault c s).timeout = s.timeout := rfl
@[simp] theorem raiseFault_fault (c : FaultCode) (s : State) : (raiseFault c s).fault = some c := rfl
@[simp] theorem raiseFault_result (c : FaultCode) (s : State) : (raiseFault c s).result = s.result := rfl
@[simp] theorem raiseFault_pbuf (c : FaultCode) (s : State) : (raiseFault c s).pbuf = s.pbuf := rfl
@[simp] theorem raiseFault_rbuf (c : FaultCode) (s : State) : (raiseFault c s).rbuf = s.rbuf := rfl
@[simp] theorem raiseFault_rlen (c : FaultCode) (s : State) : (raiseFault c s).rlen = s.rlen := rfl
@[simp] theorem raiseFault_rvalid (c : FaultCode) (s : State) : (raiseFault c s).rvalid = s.rvalid := rfl
@[simp] theorem raiseFault_rxcount (c : FaultCode) (s : State) : (raiseFault c s).rxcount = s.rxcount := rfl
@[simp] theorem raiseFault_seq (c : FaultCode) (s : State) : (raiseFault c s).seq = .idle := rfl
@[simp] theorem raiseFault_inputs (c : FaultCode) (s : State) : (raiseFault c s).inputs = s.inputs := rfl
@[simp] theorem raiseFault_outputs (c : FaultCode) (s : State) : (raiseFault c s).outputs = s.outputs ++ [.rsp rspFault] := rfl
@[simp] theorem raiseFault_wire (c : FaultCode) (s : State) : (raiseFault c s).wire = s.wire := rfl

@[simp] theorem ignoreCommand_cfg (s : State) : (ignoreCommand s).cfg = s.cfg := rfl
@[simp] theorem ignoreCommand_crc (s : State) : (ignoreCommand s).crc = s.crc := rfl
@[simp] theorem ignoreCommand_escp (s : State) : (ignoreCommand s).escp = s.escp := rfl
@[simp] theorem ignoreCommand_timeout (s : State) : (ignoreCommand s).timeout = s.timeout := rfl
@[simp] theorem ignoreCommand_fault (s : State) : (ignoreCommand s).fault = s.fault := rfl
@[simp] theorem ignoreCommand_result (s : State) : (ignoreCommand s).result = s.result := rfl
@[simp] theorem ignoreCommand_pbuf (s : State) : (ignoreCommand s).pbuf = s.pbuf := rfl
@[simp] theorem ignoreCommand_rbuf (s : State) : (ignoreCommand s).rbuf = s.rbuf := rfl
@[simp] theorem ignoreCommand_rlen (s : State) : (ignoreCommand s).rlen = s.rlen := rfl
@[simp] theorem ignoreCommand_rvalid (s : State) : (ignoreCommand s).rvalid = s.rvalid := rfl
@[simp] theorem ignoreCommand_rxcount (s : State) : (ignoreCommand s).rxcount = s.rxcount := rfl
@[simp] theorem ignoreCommand_seq (s : State) : (ignoreCommand s).seq = s.seq := rfl
@[simp] theorem ignoreCommand_inputs (s : State) : (ignoreCommand s).inputs = s.inputs := rfl
@[simp] theorem ignoreCommand_outputs (s : State) : (ignoreCommand s).outputs = s.outputs ++ [.rsp rspFault] := rfl
@[simp] theorem ignoreCommand_wire (s : State) : (ignoreCommand s).wire = s.wire := rfl

@[simp] theorem applyReset_cfg (s : State) : (applyReset s).cfg = s.cfg := rfl
@[simp] theorem applyReset_crc (s : State) : (applyReset s).crc = 0xFFFF := rfl
@[simp] theorem applyReset_escp (s : State) : (applyReset s).escp = false := rfl
@[simp] theorem applyReset_timeout (s : State) : (applyReset s).timeout = 1000 := rfl
@[simp] theorem applyReset_fault (s : State) : (applyReset s).fault = none := rfl
@[simp] theorem applyReset_result (s : State) : (applyReset s).result = .none := rfl
@[simp] theorem applyReset_pbuf (s : State) : (applyReset s).pbuf = [] := rfl
@[simp] theorem applyReset_rbuf (s : State) : (applyReset s).rbuf = [] := rfl
@[simp] theorem applyReset_rlen (s : State) : (applyReset s).rlen = 0 := rfl
@[simp] theorem applyReset_rvalid (s : State) : (applyReset s).rvalid = false := rfl
@[simp] theorem applyReset_rxcount (s : State) : (applyReset s).rxcount = 0 := rfl
@[simp] theorem applyReset_seq (s : State) : (applyReset s).seq = .idle := rfl
@[simp] theorem applyReset_inputs (s : State) : (applyReset s).inputs = s.inputs := rfl
@[simp] theorem applyReset_outputs (s : State) : (applyReset s).outputs = s.outputs := rfl
@[simp] theorem applyReset_wire (s : State) : (applyReset s).wire = s.wire := rfl

@[simp] theorem offerItem_cfg (body : List Byte) (k : Nat) (pend : List Byte) (s : State) : (offerItem body k pend s).cfg = s.cfg := rfl
@[simp] theorem offerItem_crc (body : List Byte) (k : Nat) (pend : List Byte) (s : State) : (offerItem body k pend s).crc = s.crc := rfl
@[simp] theorem offerItem_escp (body : List Byte) (k : Nat) (pend : List Byte) (s : State) : (offerItem body k pend s).escp = s.escp := rfl
@[simp] theorem offerItem_timeout (body : List Byte) (k : Nat) (pend : List Byte) (s : State) : (offerItem body k pend s).timeout = s.timeout := rfl
@[simp] theorem offerItem_fault (body : List Byte) (k : Nat) (pend : List Byte) (s : State) : (offerItem body k pend s).fault = s.fault := rfl
@[simp] theorem offerItem_result (body : List Byte) (k : Nat) (pend : List Byte) (s : State) : (offerItem body k pend s).result = s.result := rfl
@[simp] theorem offerItem_pbuf (body : List Byte) (k : Nat) (pend : List Byte) (s : State) : (offerItem body k pend s).pbuf = s.pbuf := rfl
@[simp] theorem offerItem_rbuf (body : List Byte) (k : Nat) (pend : List Byte) (s : State) : (offerItem body k pend s).rbuf = s.rbuf := rfl
@[simp] theorem offerItem_rlen (body : List Byte) (k : Nat) (pend : List Byte) (s : State) : (offerItem body k pend s).rlen = s.rlen := rfl
@[simp] theorem offerItem_rvalid (body : List Byte) (k : Nat) (pend : List Byte) (s : State) : (offerItem body k pend s).rvalid = s.rvalid := rfl
@[simp] theorem offerItem_rxcount (body : List Byte) (k : Nat) (pend : List Byte) (s : State) : (offerItem body k pend s).rxcount = s.rxcount := rfl
@[simp] theorem offerItem_seq (body : List Byte) (k : Nat) (pend : List Byte) (s : State) : (offerItem body k pend s).seq = .tx body k pend := rfl
@[simp] theorem offerItem_inputs (body : List Byte) (k : Nat) (pend : List Byte) (s : State) : (offerItem body k pend s).inputs = s.inputs := rfl
@[simp] theorem offerItem_outputs (body : List Byte) (k : Nat) (pend : List Byte) (s : State) : (offerItem body k pend s).outputs = s.outputs ++ (pend.take 1).map .txWrite := rfl
@[simp] theorem offerItem_wire (body : List Byte) (k : Nat) (pend : List Byte) (s : State) : (offerItem body k pend s).wire = s.wire := rfl

@[simp] theorem completeSend_cfg (r : ResultCode) (s : State) : (completeSend r s).cfg = s.cfg := rfl
@[simp] theorem completeSend_crc (r : ResultCode) (s : State) : (completeSend r s).crc = s.crc := rfl
@[simp] theorem completeSend_escp (r : ResultCode) (s : State) : (completeSend r s).escp = s.escp := rfl
@[simp] theorem completeSend_timeout (r : ResultCode) (s : State) : (completeSend r s).timeout = s.timeout := rfl
@[simp] theorem completeSend_fault (r : ResultCode) (s : State) : (completeSend r s).fault = s.fault := rfl
@[simp] theorem completeSend_result (r : ResultCode) (s : State) : (completeSend r s).result = r := rfl
@[simp] theorem completeSend_pbuf (r : ResultCode) (s : State) : (completeSend r s).pbuf = s.pbuf := rfl
@[simp] theorem completeSend_rbuf (r : ResultCode) (s : State) : (completeSend r s).rbuf = s.rbuf := rfl
@[simp] theorem completeSend_rlen (r : ResultCode) (s : State) : (completeSend r s).rlen = s.rlen := rfl
@[simp] theorem completeSend_rvalid (r : ResultCode) (s : State) : (completeSend r s).rvalid = s.rvalid := rfl
@[simp] theorem completeSend_rxcount (r : ResultCode) (s : State) : (completeSend r s).rxcount = s.rxcount := rfl
@[simp] theorem completeSend_seq (r : ResultCode) (s : State) : (completeSend r s).seq = .idle := rfl
@[simp] theorem completeSend_inputs (r : ResultCode) (s : State) : (completeSend r s).inputs = s.inputs := rfl
@[simp] theorem completeSend_outputs (r : ResultCode) (s : State) : (completeSend r s).outputs = s.outputs ++ [.rsp (rspSend r)] := rfl
@[simp] theorem completeSend_wire (r : ResultCode) (s : State) : (completeSend r s).wire = s.wire := rfl

@[simp] theorem completeRecv_cfg (len : Byte) (r : ResultCode) (s : State) : (completeRecv len r s).cfg = s.cfg := rfl
@[simp] theorem completeRecv_crc (len : Byte) (r : ResultCode) (s : State) : (completeRecv len r s).crc = s.crc := rfl
@[simp] theorem completeRecv_escp (len : Byte) (r : ResultCode) (s : State) : (completeRecv len r s).escp = s.escp := rfl
@[simp] theorem completeRecv_timeout (len : Byte) (r : ResultCode) (s : State) : (completeRecv len r s).timeout = s.timeout := rfl
@[simp] theorem completeRecv_fault (len : Byte) (r : ResultCode) (s : State) : (completeRecv len r s).fault = s.fault := rfl
@[simp] theorem completeRecv_result (len : Byte) (r : ResultCode) (s : State) : (completeRecv len r s).result = r := rfl
@[simp] theorem completeRecv_pbuf (len : Byte) (r : ResultCode) (s : State) : (completeRecv len r s).pbuf = s.pbuf := rfl
@[simp] theorem completeRecv_rbuf (len : Byte) (r : ResultCode) (s : State) : (completeRecv len r s).rbuf = s.rbuf := rfl
@[simp] theorem completeRecv_rlen (len : Byte) (r : ResultCode) (s : State) : (completeRecv len r s).rlen = (if r = .ok then len else s.rlen) := rfl
@[simp] theorem completeRecv_rvalid (len : Byte) (r : ResultCode) (s : State) : (completeRecv len r s).rvalid = (r == .ok) := rfl
@[simp] theorem completeRecv_rxcount (len : Byte) (r : ResultCode) (s : State) : (completeRecv len r s).rxcount = s.rxcount := rfl
@[simp] theorem completeRecv_seq (len : Byte) (r : ResultCode) (s : State) : (completeRecv len r s).seq = .idle := rfl
@[simp] theorem completeRecv_inputs (len : Byte) (r : ResultCode) (s : State) : (completeRecv len r s).inputs = s.inputs := rfl
@[simp] theorem completeRecv_outputs (len : Byte) (r : ResultCode) (s : State) : (completeRecv len r s).outputs = s.outputs ++ [.rsp (rspRecv s.rxcount r)] := rfl
@[simp] theorem completeRecv_wire (len : Byte) (r : ResultCode) (s : State) : (completeRecv len r s).wire = s.wire := rfl

@[simp] theorem storeByte_cfg (b : Byte) (s : State) : (storeByte b s).cfg = s.cfg := rfl
@[simp] theorem storeByte_crc (b : Byte) (s : State) : (storeByte b s).crc = s.crc := rfl
@[simp] theorem storeByte_escp (b : Byte) (s : State) : (storeByte b s).escp = s.escp := rfl
@[simp] theorem storeByte_timeout (b : Byte) (s : State) : (storeByte b s).timeout = s.timeout := rfl
@[simp] theorem storeByte_fault (b : Byte) (s : State) : (storeByte b s).fault = s.fault := rfl
@[simp] theorem storeByte_result (b : Byte) (s : State) : (storeByte b s).result = s.result := rfl
@[simp] theorem storeByte_pbuf (b : Byte) (s : State) : (storeByte b s).pbuf = s.pbuf := rfl
@[simp] theorem storeByte_rbuf (b : Byte) (s : State) : (storeByte b s).rbuf = s.rbuf.write s.rxcount.toNat b := rfl
@[simp] theorem storeByte_rlen (b : Byte) (s : State) : (storeByte b s).rlen = s.rlen := rfl
@[simp] theorem storeByte_rvalid (b : Byte) (s : State) : (storeByte b s).rvalid = s.rvalid := rfl
@[simp] theorem storeByte_rxcount (b : Byte) (s : State) : (storeByte b s).rxcount = s.rxcount + 1 := rfl
@[simp] theorem storeByte_seq (b : Byte) (s : State) : (storeByte b s).seq = s.seq := rfl
@[simp] theorem storeByte_inputs (b : Byte) (s : State) : (storeByte b s).inputs = s.inputs := rfl
@[simp] theorem storeByte_outputs (b : Byte) (s : State) : (storeByte b s).outputs = s.outputs := rfl
@[simp] theorem storeByte_wire (b : Byte) (s : State) : (storeByte b s).wire = s.wire := rfl

end Sys2Proof.Machine
end

