-- ==== Sys2Proof/Laws/Accept.lean ====
section
/-! SUPPORT. The checks common to every command (rule R296, cases 1 and 2), said once: what `accept` and
`acceptStatusRead` answer, and everything they can answer. -/

namespace Sys2Proof.Machine

theorem busyFlag_eq_false {q : Seq} : busyFlag q = false ↔ q = .idle := by cases q <;> simp [busyFlag]

theorem busyFlag_eq_true {q : Seq} : busyFlag q = true ↔ q ≠ .idle := by cases q <;> simp [busyFlag]

@[simp] theorem busyFlag_idle : busyFlag .idle = false := rfl

theorem accept_ready {s : State} (h : Ready s) (body : State → Result) : accept body s = body s := by
  simp [accept, h.noFault, h.idle]

theorem accept_faulted {s : State} (h : s.fault ≠ none) (body : State → Result) :
    accept body s = .next (ignoreCommand s) := by
  unfold accept
  split
  · rfl
  · contradiction

theorem accept_busy {s : State} (hf : s.fault = none) (hq : s.seq ≠ .idle) (body : State → Result) :
    accept body s = .next (raiseFault .busy s) := by
  simp [accept, hf, busyFlag_eq_true.mpr hq]

/-- Everything `accept` can answer. -/
theorem accept_cases {s : State} {body : State → Result} {r : Result} (h : accept body s = r) :
    (s.fault ≠ none ∧ r = .next (ignoreCommand s)) ∨
      (s.fault = none ∧ s.seq ≠ .idle ∧ r = .next (raiseFault .busy s)) ∨ (Ready s ∧ r = body s) := by
  subst h
  by_cases hf : s.fault = none
  · by_cases hq : s.seq = .idle
    · exact .inr (.inr ⟨⟨hf, hq⟩, accept_ready ⟨hf, hq⟩ body⟩)
    · exact .inr (.inl ⟨hf, hq, accept_busy hf hq body⟩)
  · exact .inl ⟨hf, accept_faulted hf body⟩

theorem acceptStatusRead_idle {s : State} (h : s.seq = .idle) (body : State → Result) :
    acceptStatusRead body s = body s := by simp [acceptStatusRead, h]

theorem acceptStatusRead_busy {s : State} (h : s.seq ≠ .idle) (body : State → Result) :
    acceptStatusRead body s = .next (raiseFault .busy s) := by simp [acceptStatusRead, busyFlag_eq_true.mpr h]

end Sys2Proof.Machine
end

