-- ==== Sys2Proof/Laws/Crc.lean ====
section
/-! SUPPORT. The laws of the checksum (rules R150, R155). -/

namespace Sys2Proof.Machine

@[simp] theorem crc16_nil : crc16 [] = 0xFFFF := rfl

/-- Rule R155's recursion. -/
theorem crc16_append_singleton (bs : List Byte) (b : Byte) : crc16 (bs ++ [b]) = crcUpdate (crc16 bs) b := by
  simp [crc16, List.foldl_append]

/-- The checksum of one more byte of a list. -/
theorem crc16_take_succ {bs : List Byte} {j : Nat} {b : Byte} (h : bs[j]? = some b) :
    crc16 (bs.take (j + 1)) = crcUpdate (crc16 (bs.take j)) b := by
  rw [List.take_add_one, h]
  exact crc16_append_singleton _ b

end Sys2Proof.Machine
end

