-- ==== Sys2Proof/Laws/Decode.lean ====
section
/-! SUPPORT. The laws of the command word: what each field of a packed word is, which operation code a byte selects, and
what the decoder can answer. -/

namespace Sys2Proof

@[simp] theorem fieldOp_packWord (op a b c : Byte) : fieldOp (packWord op a b c) = op := by
  apply BitVec.eq_of_getLsbD_eq
  intro j hj
  simp only [fieldOp, packWord, BitVec.getLsbD_extractLsb', BitVec.getLsbD_append]
  have h1 : ¬ 24 + j < 8 := by omega
  have h2 : ¬ 24 + j - 8 < 8 := by omega
  have h3 : ¬ 24 + j - 8 - 8 < 8 := by omega
  simp [h1, h2, h3, hj, show 24 + j - 8 - 8 - 8 = j by omega]

@[simp] theorem fieldA_packWord (op a b c : Byte) : fieldA (packWord op a b c) = a := by
  apply BitVec.eq_of_getLsbD_eq
  intro j hj
  simp only [fieldA, packWord, BitVec.getLsbD_extractLsb', BitVec.getLsbD_append]
  have h1 : ¬ 16 + j < 8 := by omega
  have h2 : ¬ 16 + j - 8 < 8 := by omega
  have h3 : 16 + j - 8 - 8 < 8 := by omega
  simp [h1, h2, hj, show 16 + j - 8 - 8 = j by omega]

@[simp] theorem fieldB_packWord (op a b c : Byte) : fieldB (packWord op a b c) = b := by
  apply BitVec.eq_of_getLsbD_eq
  intro j hj
  simp only [fieldB, packWord, BitVec.getLsbD_extractLsb', BitVec.getLsbD_append]
  have h1 : ¬ 8 + j < 8 := by omega
  simp [h1, hj, show 8 + j - 8 = j by omega]

@[simp] theorem fieldC_packWord (op a b c : Byte) : fieldC (packWord op a b c) = c := by
  apply BitVec.eq_of_getLsbD_eq
  intro j hj
  simp only [fieldC, packWord, BitVec.getLsbD_extractLsb', BitVec.getLsbD_append]
  simp [hj]

@[simp] theorem fieldOp_packWordT (op : Byte) (t : Millis) : fieldOp (packWordT op t) = op := by
  apply BitVec.eq_of_getLsbD_eq
  intro j hj
  simp only [fieldOp, packWordT, BitVec.getLsbD_extractLsb', BitVec.getLsbD_append]
  have h1 : ¬ 24 + j < 24 := by omega
  simp [hj, h1]

@[simp] theorem fieldT_packWordT (op : Byte) (t : Millis) : fieldT (packWordT op t) = t := by
  apply BitVec.eq_of_getLsbD_eq
  intro j hj
  simp only [fieldT, packWordT, BitVec.getLsbD_extractLsb', BitVec.getLsbD_append]
  simp [hj]

/-- A word is its four fields. -/
theorem packWord_fields (w : Word) : packWord (fieldOp w) (fieldA w) (fieldB w) (fieldC w) = w := by
  apply BitVec.eq_of_getLsbD_eq
  intro j hj
  simp only [fieldOp, fieldA, fieldB, fieldC, packWord, BitVec.getLsbD_append, BitVec.getLsbD_extractLsb']
  by_cases h1 : j < 8
  · simp [h1]
  · by_cases h2 : j - 8 < 8
    · simp [h1, h2, show 8 + (j - 8) = j by omega]
    · by_cases h3 : j - 8 - 8 < 8
      · simp [h1, h2, h3, show 16 + (j - 8 - 8) = j by omega]
      · simp [h1, h2, h3, show j - 8 - 8 - 8 < 8 by omega, show 24 + (j - 8 - 8 - 8) = j by omega]

/-- A word is its operation code and its 24-bit operand. -/
theorem packWordT_fields (w : Word) : packWordT (fieldOp w) (fieldT w) = w := by
  apply BitVec.eq_of_getLsbD_eq
  intro j hj
  simp only [fieldOp, fieldT, packWordT, BitVec.getLsbD_append, BitVec.getLsbD_extractLsb']
  by_cases h1 : j < 24
  · simp [h1]
  · simp [h1, show j - 24 < 8 by omega, show 24 + (j - 24) = j by omega]

/-- The 24-bit operand spans the fields `A`, `B` and `C` (rule R110). -/
theorem fieldT_eq (w : Word) : fieldT w = fieldA w ++ fieldB w ++ fieldC w := by
  apply BitVec.eq_of_getLsbD_eq
  intro j hj
  simp only [fieldT, fieldA, fieldB, fieldC, BitVec.getLsbD_append, BitVec.getLsbD_extractLsb']
  by_cases h1 : j < 8
  · simp [h1, hj]
  · by_cases h2 : j - 8 < 8
    · simp [h1, h2, hj, show 8 + (j - 8) = j by omega]
    · simp [h1, h2, hj, show j - 8 - 8 < 8 by omega, show 16 + (j - 8 - 8) = j by omega]

/-- Two words with the same four fields are equal. -/
theorem word_ext {w v : Word} (ho : fieldOp w = fieldOp v) (ha : fieldA w = fieldA v) (hb : fieldB w = fieldB v)
    (hc : fieldC w = fieldC v) : w = v := by
  rw [← packWord_fields w, ← packWord_fields v, ho, ha, hb, hc]

theorem opcodeOfByte_opcodeByte (o : Opcode) : opcodeOfByte (opcodeByte o) = some o := by
  cases o <;> decide

/-- A byte selects an operation code exactly when it is that code's value. -/
theorem opcodeOfByte_eq_some {b : Byte} {o : Opcode} : opcodeOfByte b = some o ↔ b = opcodeByte o := by
  constructor
  · intro h
    have hp : (opcodeByte o == b) = true := List.find?_some (p := fun o => opcodeByte o == b) h
    exact (beq_iff_eq.mp hp).symm
  · rintro rfl
    exact opcodeOfByte_opcodeByte o

/-- A byte selects no operation code exactly when it is no code's value. -/
theorem opcodeOfByte_eq_none {b : Byte} : opcodeOfByte b = none ↔ ∀ o, b ≠ opcodeByte o := by
  rw [Option.eq_none_iff_forall_ne_some]
  exact forall_congr' fun o => not_congr opcodeOfByte_eq_some

/-- Two operation codes with the same value are the same. -/
theorem opcodeByte_inj {o o' : Opcode} (h : opcodeByte o = opcodeByte o') : o = o' := by
  have := opcodeOfByte_opcodeByte o
  rw [h, opcodeOfByte_opcodeByte] at this
  exact (Option.some.inj this).symm

/-- The must-be-0 fields are all zero, said field by field. -/
theorem reservedZero_iff {o : Opcode} {w : Word} : reservedZero o w = true ↔
    (usesA o = false → fieldA w = 0) ∧ (usesB o = false → fieldB w = 0) ∧ (usesC o = false → fieldC w = 0) := by
  unfold reservedZero
  cases usesA o <;> cases usesB o <;> cases usesC o <;> simp [and_assoc]

/-- What the decoder answers when it accepts a word. -/
theorem decode_eq_ok {w : Word} {i : Instr} : decode w = .ok i ↔
    ∃ o, fieldOp w = opcodeByte o ∧ reservedZero o w = true ∧ i = buildInstr o w := by
  unfold decode
  constructor
  · intro h
    split at h
    · cases h
    · next o ho =>
      split at h
      · next hr => cases h; exact ⟨o, opcodeOfByte_eq_some.mp ho, hr, rfl⟩
      · cases h
  · rintro ⟨o, ho, hr, rfl⟩
    simp [ho, opcodeOfByte_opcodeByte, hr]

/-- When the decoder answers that `OP` is illegal. -/
theorem decode_eq_illegal {w : Word} : decode w = .error .illegalOpcode ↔ ∀ o, fieldOp w ≠ opcodeByte o := by
  rw [← opcodeOfByte_eq_none]
  unfold decode
  constructor
  · intro h
    split at h
    · assumption
    · split at h <;> cases h
  · intro h
    simp [h]

/-- When the decoder answers that a must-be-0 field is not zero. -/
theorem decode_eq_reserved {w : Word} : decode w = .error .reservedNonzero ↔
    ∃ o, fieldOp w = opcodeByte o ∧ reservedZero o w = false := by
  unfold decode
  constructor
  · intro h
    split at h
    · cases h
    · next o ho =>
      split at h
      · cases h
      · next hr => exact ⟨o, opcodeOfByte_eq_some.mp ho, by simpa using hr⟩
  · rintro ⟨o, ho, hr⟩
    simp [ho, opcodeOfByte_opcodeByte, hr]

@[simp] theorem opcodeOf_buildInstr (o : Opcode) (w : Word) : opcodeOf (buildInstr o w) = o := by
  cases o <;> rfl

end Sys2Proof
end

