-- ==== Sys2Proof/Laws/Memory.lean ====
section
/-! SUPPORT. The laws of the buffers: read after write, the canonical form kept by every write, and runs of bytes. -/

namespace Sys2Proof.Machine

@[simp] theorem Memory.read_nil (a : Nat) : Memory.read [] a = none := rfl

theorem Memory.read_write_same (m : Memory) (a : Nat) (v : Byte) : (m.write a v).read a = some v := by
  induction m with
  | nil => simp [Memory.write, Memory.read]
  | cons c rest ih =>
    obtain ⟨x, b⟩ := c
    unfold Memory.write
    split
    · simp [Memory.read]
    · split
      · simp [Memory.read]
      · next h => simpa [Memory.read, h] using ih

theorem Memory.read_write_other (m : Memory) {a j : Nat} (v : Byte) (h : j ≠ a) :
    (m.write a v).read j = m.read j := by
  induction m with
  | nil => simp [Memory.write, Memory.read, h]
  | cons c rest ih =>
    obtain ⟨x, b⟩ := c
    unfold Memory.write
    split
    · simp [Memory.read, h]
    · split
      · next hx => subst hx; simp [Memory.read, h]
      · simp [Memory.read, ih]

/-- A read after a write, whichever index is read. -/
theorem Memory.read_write (m : Memory) (a j : Nat) (v : Byte) :
    (m.write a v).read j = if j = a then some v else m.read j := by
  split
  · next h => subst h; exact Memory.read_write_same m j v
  · next h => exact Memory.read_write_other m v h

theorem Memory.risingFrom_write {m : Memory} {lo a : Nat} (v : Byte) (h : m.risingFrom lo = true) (ha : lo ≤ a) :
    (m.write a v).risingFrom lo = true := by
  induction m generalizing lo with
  | nil => simp [Memory.write, Memory.risingFrom, ha]
  | cons c rest ih =>
    obtain ⟨x, b⟩ := c
    simp only [Memory.risingFrom, Bool.and_eq_true, decide_eq_true_eq] at h
    unfold Memory.write
    split
    · simp only [Memory.risingFrom, Bool.and_eq_true, decide_eq_true_eq]
      exact ⟨ha, by omega, h.2⟩
    · split
      · next hx => subst hx; simp [Memory.risingFrom, ha, h.2]
      · simp only [Memory.risingFrom, Bool.and_eq_true, decide_eq_true_eq]
        exact ⟨h.1, ih h.2 (by omega)⟩

theorem Memory.all_lt_write {m : Memory} {size a : Nat} (v : Byte) (h : m.all (fun c => decide (c.1 < size)) = true)
    (ha : a < size) : (m.write a v).all (fun c => decide (c.1 < size)) = true := by
  induction m with
  | nil => simp [Memory.write, ha]
  | cons c rest ih =>
    obtain ⟨x, b⟩ := c
    simp only [List.all_cons, Bool.and_eq_true] at h
    unfold Memory.write
    split
    · simp only [List.all_cons, Bool.and_eq_true]
      exact ⟨by simpa using ha, h⟩
    · split
      · simp only [List.all_cons, Bool.and_eq_true]
        exact ⟨by simpa using ha, h.2⟩
      · simp only [List.all_cons, Bool.and_eq_true]
        exact ⟨h.1, ih h.2⟩

/-- Every write inside a buffer keeps its canonical form. -/
theorem Memory.wf_write {m : Memory} {size a : Nat} (v : Byte) (h : m.wf size = true) (ha : a < size) :
    (m.write a v).wf size = true := by
  simp only [Memory.wf, Bool.and_eq_true] at h ⊢
  exact ⟨Memory.risingFrom_write v h.1 (Nat.zero_le a), Memory.all_lt_write v h.2 ha⟩

/-- An empty buffer is in canonical form: the buffers after reset. -/
theorem Memory.wf_nil (size : Nat) : Memory.wf size [] = true := rfl

theorem Memory.run_length_le (m : Memory) (a k : Nat) : (m.run a k).length ≤ k := by
  induction k generalizing a with
  | zero => simp [Memory.run]
  | succ k ih =>
    unfold Memory.run
    split
    · have := ih (a + 1); simp only [List.length_cons]; omega
    · simp

/-- A run is complete when every one of its bytes is there, and it is those bytes. -/
theorem Memory.run_eq {m : Memory} {a k : Nat} {bs : List Byte} (hlen : bs.length = k)
    (h : ∀ j < k, m.read (a + j) = bs[j]?) : m.run a k = bs := by
  induction k generalizing a bs with
  | zero => simp [Memory.run, List.length_eq_zero_iff.mp hlen]
  | succ k ih =>
    obtain _ | ⟨b, rest⟩ := bs
    · simp at hlen
    · have h0 := h 0 (by omega)
      simp only [Nat.add_zero, List.getElem?_cons_zero] at h0
      have hrest : m.run (a + 1) k = rest := by
        apply ih (by simpa using hlen)
        intro j hj
        have := h (j + 1) (by omega)
        rw [List.getElem?_cons_succ] at this
        rw [← this]
        congr 1
        omega
      simp [Memory.run, h0, hrest]

/-- A run is cut short exactly when one of its bytes is not there. -/
theorem Memory.run_length_lt {m : Memory} {a k : Nat} :
    (m.run a k).length < k ↔ ∃ j < k, m.read (a + j) = none := by
  induction k generalizing a with
  | zero => simp
  | succ k ih =>
    unfold Memory.run
    split
    · next b hb =>
      simp only [List.length_cons, Nat.add_lt_add_iff_right, ih]
      constructor
      · rintro ⟨j, hj, h⟩
        exact ⟨j + 1, by omega, by rw [← h]; congr 1; omega⟩
      · rintro ⟨j, hj, h⟩
        obtain _ | j := j
        · simp [hb] at h
        · exact ⟨j, by omega, by rw [← h]; congr 1; omega⟩
    · next hb => simp only [List.length_nil, Nat.zero_lt_succ, true_iff]; exact ⟨0, by omega, by simpa using hb⟩

/-- A run depends only on the bytes it reads. -/
theorem Memory.run_congr {m m' : Memory} {a k : Nat} (h : ∀ j < k, m'.read (a + j) = m.read (a + j)) :
    m'.run a k = m.run a k := by
  induction k generalizing a with
  | zero => rfl
  | succ k ih =>
    have h0 := h 0 (by omega)
    have hrest : m'.run (a + 1) k = m.run (a + 1) k := by
      apply ih
      intro j hj
      have := h (j + 1) (by omega)
      rwa [show a + (j + 1) = a + 1 + j by omega] at this
    simp only [Nat.add_zero] at h0
    simp only [Memory.run, h0, hrest]

end Sys2Proof.Machine
end

