-- ==== Sys2Proof/Laws/FrameDecoder.lean ====
section
/-! SUPPORT. The frame decoder's shared operations (rules R241 to R247), each with one lemma that says everything it can
do. -/

namespace Sys2Proof.Machine

/-- Everything RECV's acceptance step can do (rule R242). -/
theorem beginRecv_cases (len : Byte) (s : State) :
    (len = 0 ∧ beginRecv len s = completeRecv 0 .ok { s with rvalid := false, rxcount := 0 }) ∨
    (len ≠ 0 ∧ beginRecv len s =
      emit (.rxRequest len s.timeout) { s with rvalid := false, rxcount := 0, seq := .rx len }) := by
  by_cases h : len = 0
  · exact .inl ⟨h, if_pos h⟩
  · exact .inr ⟨h, if_neg h⟩

/-- Everything a delivered byte can do: be dropped, be stored, or be stored and complete the RECV (rule R244). -/
theorem takeRxByte_cases (b : Byte) (s : State) :
    takeRxByte b s = s ∨
    ∃ len, s.seq = .rx len ∧ s.rxcount.toNat < len.toNat ∧
      ((s.rxcount + 1 ≠ len ∧ takeRxByte b s = storeByte b s) ∨
       (s.rxcount + 1 = len ∧ takeRxByte b s =
         completeRecv len (classify s.cfg len (response (storeByte b s) len)) (storeByte b s))) := by
  unfold takeRxByte
  split
  · next len hq =>
    split
    · next hlt =>
      refine .inr ⟨len, hq, hlt, ?_⟩
      by_cases hc : s.rxcount + 1 = len
      · exact .inr ⟨hc, if_pos hc⟩
      · exact .inl ⟨hc, if_neg hc⟩
    · exact .inl rfl
  · exact .inl rfl
  · exact .inl rfl

/-- Everything a read timeout can do: be dropped, or end the RECV (rule R246). -/
theorem takeRxTimeout_cases (s : State) :
    takeRxTimeout s = s ∨
    ∃ len, s.seq = .rx len ∧ s.rxcount.toNat < len.toNat ∧ takeRxTimeout s = completeRecv len .readTimeout s := by
  unfold takeRxTimeout
  split
  · next len hq =>
    split
    · next hlt => exact .inr ⟨len, hq, hlt, rfl⟩
    · exact .inl rfl
  · exact .inl rfl
  · exact .inl rfl

/-- Everything RREAD's effect can do (rule R247). -/
theorem readResponse_cases (idx : Byte) (s : State) :
    (s.rvalid = false ∧ readResponse idx s = .next (raiseFault .noResponse s)) ∨
    (s.rvalid = true ∧ s.rlen.toNat ≤ idx.toNat ∧ readResponse idx s = .next (raiseFault .indexRange s)) ∨
    (s.rvalid = true ∧ idx.toNat < s.rlen.toNat ∧ ∃ b, s.rbuf.read idx.toNat = some b ∧
      readResponse idx s = .next (respond (rspByte b) s)) ∨
    (s.rvalid = true ∧ idx.toNat < s.rlen.toNat ∧ s.rbuf.read idx.toNat = none ∧
      readResponse idx s = .fault .unwrittenResponse) := by
  by_cases hv : s.rvalid = true
  · by_cases hi : idx.toNat < s.rlen.toNat
    · cases hb : s.rbuf.read idx.toNat with
      | some b => exact .inr (.inr (.inl ⟨hv, hi, b, rfl, by simp [readResponse, hv, hi, hb]⟩))
      | none => exact .inr (.inr (.inr ⟨hv, hi, rfl, by simp [readResponse, hv, hi, hb]⟩))
    · exact .inr (.inl ⟨hv, by omega, by simp [readResponse, hv, hi]⟩)
  · exact .inl ⟨by simpa using hv, by simp [readResponse, hv]⟩

/-- A completed RECV is readable exactly when it is `OK` (rules R41, R245). -/
theorem completeRecv_readable {len : Byte} {r : ResultCode} {s : State} :
    (completeRecv len r s).rvalid = true ↔ r = .ok := by simp

/-- Counting one more byte does not wrap while bytes are still wanted (rule R43). -/
theorem toNat_rxcount_succ {n len : Byte} (h : n.toNat < len.toNat) : (n + 1).toNat = n.toNat + 1 := by
  have hl := len.isLt
  have h1 : (1 : Byte).toNat = 1 := rfl
  rw [BitVec.toNat_add, h1, Nat.mod_eq_of_lt (by omega)]

end Sys2Proof.Machine
end

