-- ==== Sys2Proof/Laws/Stuffing.lean ====
section
/-! SUPPORT. The laws of the stuffer and the unstuffer (rules R170 to R178). -/

namespace Sys2Proof.Machine

/-- What rule R9 says of the two markers. -/
theorem wf_iff {c : Config} : c.wf = true ↔ c.stx.toNat < 0x80 ∧ c.esc.toNat < 0x80 ∧ c.stx ≠ c.esc := by
  simp [Config.wf, and_assoc]

theorem stuff_marker {c : Config} {b : Byte} (h : b = c.stx ∨ b = c.esc) : stuff c b = [c.esc, b ||| 0x80] := by
  simp [stuff, h]

theorem stuff_plain {c : Config} {b : Byte} (h : ¬ (b = c.stx ∨ b = c.esc)) : stuff c b = [b] := by
  simp [stuff, h]

theorem stuff_ne_nil (c : Config) (b : Byte) : stuff c b ≠ [] := by
  unfold stuff; split <;> simp

theorem stuff_length (c : Config) (b : Byte) :
    (stuff c b).length = 1 + if b = c.stx ∨ b = c.esc then 1 else 0 := by
  unfold stuff; split <;> simp

/-- The first wire byte of a logical byte. -/
theorem stuff_take_one (c : Config) (b : Byte) :
    (stuff c b).take 1 = [if b = c.stx ∨ b = c.esc then c.esc else b] := by
  unfold stuff; split <;> simp

@[simp] theorem stuffSeq_nil (c : Config) : stuffSeq c [] = [] := rfl

@[simp] theorem stuffSeq_cons (c : Config) (b : Byte) (bs : List Byte) :
    stuffSeq c (b :: bs) = stuff c b ++ stuffSeq c bs := by
  simp [stuffSeq]

theorem stuffSeq_append (c : Config) (bs bs' : List Byte) :
    stuffSeq c (bs ++ bs') = stuffSeq c bs ++ stuffSeq c bs' := by
  simp [stuffSeq]

/-- Setting bit 7 of a byte below 0x80 adds 0x80 to it. -/
theorem toNat_or_escMask {b : Byte} (h : b.toNat < 0x80) : (b ||| 0x80#8).toNat = b.toNat + 0x80 := by
  rw [BitVec.toNat_or, Nat.or_comm]
  simpa [Nat.add_comm] using (Nat.two_pow_add_eq_or_of_lt (i := 7) h 1).symm

/-- Under rule R9 the four bytes `STX`, `ESC`, `STX|0x80` and `ESC|0x80` are distinct. -/
theorem markers_distinct {c : Config} (h : c.wf = true) :
    c.stx ≠ c.esc ∧ c.stx ||| 0x80#8 ≠ c.stx ∧ c.stx ||| 0x80#8 ≠ c.esc ∧ c.esc ||| 0x80#8 ≠ c.stx ∧
      c.esc ||| 0x80#8 ≠ c.esc ∧ c.stx ||| 0x80#8 ≠ c.esc ||| 0x80#8 := by
  obtain ⟨hs, he, hne⟩ := wf_iff.mp h
  have hS := toNat_or_escMask hs
  have hE := toNat_or_escMask he
  have hne' : c.stx.toNat ≠ c.esc.toNat := fun h => hne (BitVec.eq_of_toNat_eq h)
  refine ⟨hne, ?_, ?_, ?_, ?_, ?_⟩ <;> intro h <;> have := congrArg BitVec.toNat h <;> omega

end Sys2Proof.Machine
end

