-- ==== Sys2Proof/Laws/FrameEncoder.lean ====
section
/-! SUPPORT. The frame encoder's shared operations (rules R206 to R216), each with one lemma that says everything it can
do. -/

namespace Sys2Proof.Machine

/-- The body of a frame has its parameters and three bytes more (rule R45). -/
@[simp] theorem frameBody_length (cmd : Byte) (ps : List Byte) : (frameBody cmd ps).length = ps.length + 3 := rfl

/-- Starting an item offers its first wire byte and touches `CRC`, `SEQ` and the outputs only. With the checksum register
as rule R211 has it, the pending bytes are the item's wire bytes. -/
theorem startItem_eq (body : List Byte) (k : Nat) (s : State) :
    ∃ c pend, pend ≠ [] ∧ startItem body k s =
      { s with crc := c, seq := .tx body k pend, outputs := s.outputs ++ (pend.take 1).map .txWrite } := by
  unfold startItem
  split
  · exact ⟨s.crc, [s.cfg.stx], by simp, rfl⟩
  · split
    · next x _ => exact ⟨crcUpdate s.crc x, stuff s.cfg x, stuff_ne_nil _ _, rfl⟩
    · split
      · exact ⟨s.crc, stuff s.cfg (crcHi s.crc), stuff_ne_nil _ _, rfl⟩
      · exact ⟨s.crc, stuff s.cfg (crcLo s.crc), stuff_ne_nil _ _, rfl⟩

/-- Starting item `k` with the checksum of the items before it (rule R211) leaves the checksum of the items up to it and
the item's wire bytes pending. -/
theorem startItem_of_crc {body : List Byte} {k : Nat} {s : State} (h : s.crc = crc16 (body.take (k - 1))) :
    startItem body k s =
      { s with
        crc := crc16 (body.take k)
        seq := .tx body k (itemWire s.cfg body k)
        outputs := s.outputs ++ ((itemWire s.cfg body k).take 1).map .txWrite } := by
  unfold startItem itemWire
  split
  · simpa [offerItem] using h
  · next j =>
    rw [show j + 1 - 1 = j from rfl] at h
    split
    · next x hx => simp [transmitByte, foldByte, offerItem, crc16_take_succ hx, h]
    · next hx =>
      have hj : body.length ≤ j := List.getElem?_eq_none_iff.mp hx
      have hc : s.crc = crc16 body := by rw [h, List.take_of_length_le hj]
      rw [List.take_of_length_le (by omega)]
      split <;> simp [transmitByte, foldByte, offerItem, hc]

theorem itemWire_ne_nil (c : Config) (body : List Byte) (k : Nat) : itemWire c body k ≠ [] := by
  unfold itemWire
  split
  · simp
  · split
    · exact stuff_ne_nil _ _
    · split <;> exact stuff_ne_nil _ _

/-- Everything `TxAck(true)` can do in mode `TX` (rule R214): offer the next byte of the item, complete, or start the next
item. -/
theorem txAccepted_cases (body : List Byte) (k : Nat) (pend : List Byte) (s : State) :
    (∃ w rest, pend.drop 1 = w :: rest ∧ txAccepted body k pend s =
      offerItem body k (w :: rest) { s with wire := s.wire ++ pend.take 1 }) ∨
    (pend.drop 1 = [] ∧ k = body.length + 2 ∧ txAccepted body k pend s =
      completeSend .ok { s with wire := s.wire ++ pend.take 1 }) ∨
    (pend.drop 1 = [] ∧ k ≠ body.length + 2 ∧ txAccepted body k pend s =
      startItem body (k + 1) { s with wire := s.wire ++ pend.take 1 }) := by
  unfold txAccepted
  split
  · next w rest h => exact .inl ⟨w, rest, h, rfl⟩
  · next h =>
    by_cases hk : k = body.length + 2
    · exact .inr (.inl ⟨h, hk, by simp [hk]⟩)
    · exact .inr (.inr ⟨h, hk, by simp [hk]⟩)

/-- Everything a SEND's acceptance step can do (rules R206 to R209). -/
theorem beginSend_cases (cmd n : Byte) (s : State) :
    (255 ≤ n.toNat ∧ beginSend cmd n s = completeSend .paramInvalid s) ∨
    (n.toNat < 255 ∧ (∃ j < n.toNat, pvalid s j = false) ∧ beginSend cmd n s = raiseFault .unwrittenParam s) ∨
    (n.toNat < 255 ∧ (sendParams s n).length = n.toNat ∧ beginSend cmd n s =
      { s with
        crc := 0xFFFF
        seq := .tx (frameBody cmd (sendParams s n)) 0 [s.cfg.stx]
        outputs := s.outputs ++ [.txWrite s.cfg.stx] }) := by
  by_cases hn : 255 ≤ n.toNat
  · exact .inl ⟨hn, by simp [beginSend, hn]⟩
  · by_cases hp : (sendParams s n).length < n.toNat
    · refine .inr (.inl ⟨by omega, ?_, by simp [beginSend, hn, hp]⟩)
      obtain ⟨j, hj, hr⟩ := Memory.run_length_lt.mp hp
      exact ⟨j, hj, by simpa [pvalid] using hr⟩
    · have hle : (sendParams s n).length ≤ n.toNat := Memory.run_length_le _ _ _
      exact .inr (.inr ⟨by omega, by omega, by simp [beginSend, hn, hp, startSend, startItem, offerItem]⟩)

/-- Everything PLOAD's effect can do (rule R201). -/
theorem loadParam_cases (idx v : Byte) (s : State) :
    (idx.toNat < 254 ∧ loadParam idx v s = respond rspNone { s with pbuf := s.pbuf.write idx.toNat v }) ∨
    (254 ≤ idx.toNat ∧ loadParam idx v s = raiseFault .indexRange s) := by
  by_cases h : idx.toNat < 254
  · exact .inl ⟨h, by simp [loadParam, h]⟩
  · exact .inr ⟨by omega, by simp [loadParam, h]⟩

end Sys2Proof.Machine
end

