-- ==== Sys2Proof/Laws/HostLayer.lean ====
section
/-! SUPPORT. The laws of the host's operations (rules R15 to R18): what follows an operation's FRAME, and its outcome. -/

namespace Sys2Proof.Machine

/-- Everything that can follow an operation's FRAME. -/
theorem hostFollowUp_cases (c : CommandBytes) (op : HostOp) (r : ResultCode) :
    (hostFollowUp c op r = [] ∧ (r ≠ .ok ∨ (hostTriple c op).2.2 = none)) ∨
      ∃ len, hostFollowUp c op r = [.recv len] ∧ r = .ok ∧ (hostTriple c op).2.2 = some len := by
  unfold hostFollowUp
  cases h : (hostTriple c op).2.2 with
  | none => exact .inl ⟨rfl, .inr rfl⟩
  | some len =>
    by_cases hr : r = .ok
    · exact .inr ⟨len, if_pos hr, hr, rfl⟩
    · exact .inl ⟨if_neg hr, .inl hr⟩

/-- An operation succeeds exactly when the host does not reject it, its SEND is `OK`, and so is its RECV where it has
one. -/
theorem hostOutcome_eq_ok {c : CommandBytes} {op : HostOp} {sent received : ResultCode} :
    hostOutcome c op sent received = .ok ↔
      hostFrame c op ≠ none ∧ sent = .ok ∧ ((hostTriple c op).2.2 = none ∨ received = .ok) := by
  unfold hostOutcome
  cases hostFrame c op with
  | none => simp
  | some is =>
    rcases hostFollowUp_cases c op sent with ⟨h, hn⟩ | ⟨len, h, rfl, hl⟩
    · simpa [h] using fun hs => .inl (hn.resolve_left (not_not_intro hs))
    · simp [h, hl]

end Sys2Proof.Machine
end

