-- ==== Sys2Proof/Laws/PerInstr.lean ====
section
/-! SUPPORT. Per-command laws of the encoding. Family `FieldsPlaced`: in the word of a command the `OP` field holds the
command's operation code and every must-be-0 field is zero (rules R112, R113). -/

namespace Sys2Proof.Laws.FieldsPlaced

/-- The word of `i` carries `i`'s operation code, and its must-be-0 fields are zero. -/
def Statement (i : Instr) : Prop :=
  fieldOp (encode i) = opcodeByte (opcodeOf i) ∧ reservedZero (opcodeOf i) (encode i) = true

theorem every (i : Instr) : Statement i := by
  cases i <;> simp [Statement, encode, opcodeOf, opcodeByte, reservedZero, usesA, usesB, usesC]

theorem crcInit : Statement .crcInit := every _

theorem crcUpdate (b : Byte) : Statement (.crcUpdate b) := every _

theorem crcRead : Statement .crcRead := every _

theorem stuff (b : Byte) : Statement (.stuff b) := every _

theorem unstuffReset : Statement .unstuffReset := every _

theorem unstuff (w : Byte) : Statement (.unstuff w) := every _

theorem pload (idx v : Byte) : Statement (.pload idx v) := every _

theorem send (cmd n : Byte) : Statement (.send cmd n) := every _

theorem recv (len : Byte) : Statement (.recv len) := every _

theorem rread (idx : Byte) : Statement (.rread idx) := every _

theorem statusRead : Statement .statusRead := every _

theorem setTimeout (ms : Millis) : Statement (.setTimeout ms) := every _

theorem timeoutRead : Statement .timeoutRead := every _

end Sys2Proof.Laws.FieldsPlaced
end

