-- ==== Sys2Proof/Laws/Responses.lean ====
section
/-! SUPPORT. The response words (rules R120 to R127): zero-extension said as a concatenation, and the top byte of every
answer that is not a fault. -/

namespace Sys2Proof.Machine

/-- A word below 2^24 has a zero top byte. -/
theorem topByte_of_lt {w : Word} (h : w.toNat < 2 ^ 24) : w.extractLsb' 24 8 = 0#8 := by
  apply BitVec.eq_of_toNat_eq
  rw [BitVec.extractLsb'_toNat, Nat.shiftRight_eq_div_pow, Nat.div_eq_of_lt h]
  rfl

/-- Zero extension to 32 bits puts zeros above the value. -/
theorem setWidth_eq_append {k n : Nat} (x : BitVec n) : x.setWidth (k + n) = 0#k ++ x := by
  apply BitVec.eq_of_getLsbD_eq
  intro j hj
  rw [BitVec.getLsbD_setWidth, BitVec.getLsbD_append]
  by_cases h : j < n
  · simp [h, hj]
  · simp [h, BitVec.getLsbD_of_ge x j (by omega)]

theorem rspCrc_eq (c : Crc) : rspCrc c = 0#16 ++ c := setWidth_eq_append (k := 16) c

theorem rspByte_eq (b : Byte) : rspByte b = 0#24 ++ b := setWidth_eq_append (k := 24) b

theorem rspTimeout_eq (t : Millis) : rspTimeout t = 0#8 ++ t := setWidth_eq_append (k := 8) t

theorem rspStatus_eq (st : BitVec 16) : rspStatus st = 0#16 ++ st := setWidth_eq_append (k := 16) st

theorem topByte_rspCrc (c : Crc) : (rspCrc c).extractLsb' 24 8 = 0#8 :=
  topByte_of_lt (by have := c.isLt; simp [rspCrc]; omega)

theorem topByte_rspByte (b : Byte) : (rspByte b).extractLsb' 24 8 = 0#8 :=
  topByte_of_lt (by have := b.isLt; simp [rspByte]; omega)

theorem topByte_rspTimeout (t : Millis) : (rspTimeout t).extractLsb' 24 8 = 0#8 :=
  topByte_of_lt (by have := t.isLt; simp [rspTimeout]; omega)

theorem topByte_rspStatus (st : BitVec 16) : (rspStatus st).extractLsb' 24 8 = 0#8 :=
  topByte_of_lt (by have := st.isLt; simp [rspStatus]; omega)

theorem topByte_rspEvent (ev : UnstuffEvent) : (rspEvent ev).extractLsb' 24 8 = 0#8 :=
  fieldOp_packWord 0#8 0#8 (eventKind ev) (eventValue ev)

theorem topByte_rspSend (r : ResultCode) : (rspSend r).extractLsb' 24 8 = 0#8 := by cases r <;> decide

theorem topByte_rspRecv (count : Byte) (r : ResultCode) : (rspRecv count r).extractLsb' 24 8 = 0#8 :=
  fieldOp_packWord 0#8 0#8 count ((resultBits r).setWidth 8)

/-- STUFF's answer has its count, 1 or 2, in the top byte (rule R122). -/
theorem topByte_rspStuff (c : Config) (b : Byte) :
    (rspStuff (stuff c b)).extractLsb' 24 8 = BitVec.ofNat 8 (stuff c b).length :=
  fieldOp_packWord _ _ _ _

theorem topByte_rspStuff_le (c : Config) (b : Byte) : ((rspStuff (stuff c b)).extractLsb' 24 8).toNat ≤ 2 := by
  rw [topByte_rspStuff, stuff_length]
  split <;> simp

end Sys2Proof.Machine
end

