-- ==== Sys2Proof/Laws/Step.lean ====
section
/-! SUPPORT. What one step can do, said once, and how runs compose. Proofs about all steps start from `step_cases` and
`exec_cases` and unfold no step function. -/

namespace Sys2Proof.Machine

/-- The effect of a command once the checks of rule R296, cases 1 and 2, have let it through. -/
def ownEffect (i : Instr) (s : State) : Result :=
  match i with
  | .crcInit => .next (respond rspNone { s with crc := Config.crcInitValue })
  | .crcUpdate b => .next (respond (rspCrc (crcUpdate s.crc b)) { s with crc := crcUpdate s.crc b })
  | .crcRead => .next (respond (rspCrc s.crc) s)
  | .stuff b => .next (respond (rspStuff (stuff s.cfg b)) s)
  | .unstuffReset => .next (respond rspNone { s with escp := false })
  | .unstuff w => .next (respond (rspEvent (unstuffStep s.cfg s.escp w).2)
      { s with escp := (unstuffStep s.cfg s.escp w).1 })
  | .pload idx v => .next (loadParam idx v s)
  | .send cmd n => .next (beginSend cmd n s)
  | .recv len => .next (beginRecv len s)
  | .rread idx => readResponse idx s
  | .statusRead => .next (respond (rspStatus (statusWord s)) s)
  | .setTimeout ms => .next (respond rspNone { s with timeout := ms })
  | .timeoutRead => .next (respond (rspTimeout s.timeout) s)

/-- Every command but STATUS_READ is its own effect behind `accept`. -/
theorem exec_eq_accept {i : Instr} (h : i ≠ .statusRead) (s : State) : exec i s = accept (ownEffect i) s := by
  cases i <;> first | rfl | contradiction

theorem exec_statusRead (s : State) : exec .statusRead s = acceptStatusRead (ownEffect .statusRead) s := rfl

/-- A CORE that accepts commands runs the command's own effect. -/
theorem exec_ready {s : State} (h : Ready s) (i : Instr) : exec i s = ownEffect i s := by
  by_cases hi : i = .statusRead
  · subst hi; exact acceptStatusRead_idle h.idle (ownEffect .statusRead)
  · rw [exec_eq_accept hi, accept_ready h]

/-- Everything a command can do: be ignored, fault `BUSY`, or have its own effect. -/
theorem exec_cases {i : Instr} {s : State} {r : Result} (h : exec i s = r) :
    (i ≠ .statusRead ∧ s.fault ≠ none ∧ r = .next (ignoreCommand s)) ∨
      ((s.fault = none ∨ i = .statusRead) ∧ s.seq ≠ .idle ∧ r = .next (raiseFault .busy s)) ∨
      ((s.fault = none ∨ i = .statusRead) ∧ s.seq = .idle ∧ r = ownEffect i s) := by
  subst h
  by_cases hi : i = .statusRead
  · subst hi
    by_cases hq : s.seq = .idle
    · exact .inr (.inr ⟨.inr rfl, hq, acceptStatusRead_idle hq (ownEffect .statusRead)⟩)
    · exact .inr (.inl ⟨.inr rfl, hq, acceptStatusRead_busy hq (ownEffect .statusRead)⟩)
  · rw [exec_eq_accept hi]
    rcases accept_cases (s := s) (body := ownEffect i) rfl with ⟨hf, h⟩ | ⟨hf, hq, h⟩ | ⟨hr, h⟩
    · exact .inl ⟨hi, hf, h⟩
    · exact .inr (.inl ⟨.inl hf, hq, h⟩)
    · exact .inr (.inr ⟨.inl hr.noFault, hr.idle, h⟩)

/-- What `step` does with the next input. -/
theorem step_cons {s : State} {i : Input} {rest : List Input} (hw : s.cfg.wf = true) (h : s.inputs = i :: rest) :
    step s = takeInput i { s with inputs := rest } := by
  simp [step, hw, runNext, h]

theorem step_nil {s : State} (hw : s.cfg.wf = true) (h : s.inputs = []) : step s = .next s := by
  simp [step, hw, runNext, h]

/-- Everything a step that has a next state can be. -/
theorem step_cases {s t : State} (h : step s = .next t) :
    s.cfg.wf = true ∧ ((s.inputs = [] ∧ t = s) ∨
      ∃ i rest, s.inputs = i :: rest ∧ takeInput i { s with inputs := rest } = .next t) := by
  unfold step at h
  split at h
  · next hw =>
    refine ⟨hw, ?_⟩
    unfold runNext at h
    split at h
    · next hi => cases h; exact .inl ⟨hi, rfl⟩
    · next i rest hi => exact .inr ⟨i, rest, hi, h⟩
  · cases h

/-- Everything a command word can do: select a command, or raise the fault of rule R296, case 3 or 4. -/
theorem takeCommand_cases {w : Word} {s : State} {r : Result} (h : takeCommand w s = r) :
    (∃ i, decode w = .ok i ∧ r = exec i s) ∨
      ∃ e, decode w = .error e ∧ r = accept (fun s => .next (raiseFault (decodeFault e) s)) s := by
  unfold takeCommand at h
  split at h
  · next i hi => exact .inl ⟨i, hi, h.symm⟩
  · next e he => exact .inr ⟨e, he, h.symm⟩

/-- A command word that decodes to `i`, given to a CORE that accepts commands, has `i`'s own effect. -/
theorem step_command_ready {s : State} {w : Word} {i : Instr} {rest : List Input} (hw : s.cfg.wf = true)
    (hr : Ready s) (h : s.inputs = .command w :: rest) (hd : decode w = .ok i) :
    step s = ownEffect i { s with inputs := rest } := by
  have hr' : Ready { s with inputs := rest } := ⟨hr.noFault, hr.idle⟩
  rw [step_cons hw h, ← exec_ready hr' i]
  simp only [takeInput, takeCommand, hd]

@[simp] theorem run_zero (s : State) : run 0 s = .next s := rfl

theorem run_succ {s t : State} (h : step s = .next t) (n : Nat) : run (n + 1) s = run n t := by
  have hs : Sys2Proof.core.step s = .next t := h
  simp only [run, Host.Core.run, hs]; rfl

theorem run_one {s t : State} (h : step s = .next t) : run 1 s = .next t := run_succ h 0

/-- The first step of a run that has a next state. -/
theorem run_succ_cases {s t : State} {n : Nat} (h : run (n + 1) s = .next t) :
    ∃ s', step s = .next s' ∧ run n s' = .next t := by
  simp only [run, Host.Core.run] at h
  generalize hr : Sys2Proof.core.step s = r at h
  cases r with
  | next s' => exact ⟨s', hr, h⟩
  | fault e => cases h
  | refused e => cases h

/-- Runs compose. -/
theorem run_add {s t : State} {m : Nat} (h : run m s = .next t) (n : Nat) : run (m + n) s = run n t := by
  induction m generalizing s with
  | zero =>
    cases Host.Outcome.next.inj h
    rw [Nat.zero_add]
  | succ m ih =>
    obtain ⟨s', hs, hrun⟩ := run_succ_cases h
    rw [show m + 1 + n = (m + n) + 1 by omega, run_succ hs]
    exact ih hrun

end Sys2Proof.Machine
end

