-- ==== Sys2Proof/Laws/Transition.lean ====
section
/-! SUPPORT. Everything one step can do to the CORE, as one list of cases: `Transition` names them, `takeInput_transition`
and `step_transition` say that there are no others. A proof about all steps is a case analysis over it. -/

namespace Sys2Proof.Machine

/-- The ways an input can change a state. -/
inductive Transition (s : State) : Input → State → Prop where
  /-- A command ignored in the faulted state (rule R301). -/
  | ignored (w : Word) : s.fault ≠ none → Transition s (.command w) (ignoreCommand s)
  /-- A command that faults (rule R300). -/
  | faulted (w : Word) (code : FaultCode) : s.fault = none ∨ s.seq ≠ .idle →
      Transition s (.command w) (raiseFault code s)
  /-- A command that answers `r` at once and writes at most `CRC`, `ESCP`, one parameter and `TIMEOUT`; in the faulted
  state, STATUS_READ, which writes none. -/
  | answered (w : Word) (i : Instr) (r : Word) (c : Crc) (e : Bool) (p : Memory) (ms : Millis) :
      decode w = .ok i → (∀ cmd n, i ≠ .send cmd n) → (∀ len, i ≠ .recv len) → s.seq = .idle →
      (s.fault = none ∨ (c = s.crc ∧ e = s.escp ∧ p = s.pbuf ∧ ms = s.timeout)) →
      (r.extractLsb' 24 8).toNat ≤ 2 → (p = s.pbuf ∨ ∃ j v, j < 254 ∧ p = s.pbuf.write j v) →
      Transition s (.command w)
        { s with crc := c, escp := e, pbuf := p, timeout := ms, outputs := s.outputs ++ [.rsp r] }
  /-- A SEND of 255 parameters (rule R207). -/
  | sendRejected (w : Word) : s.fault = none → s.seq = .idle →
      Transition s (.command w) (completeSend .paramInvalid s)
  /-- A SEND that starts (rule R209). -/
  | sendStarted (w : Word) (cmd : Byte) (ps : List Byte) : s.fault = none → s.seq = .idle → ps.length ≤ 254 →
      Transition s (.command w)
        { s with crc := 0xFFFF, seq := .tx (frameBody cmd ps) 0 [s.cfg.stx],
                 outputs := s.outputs ++ [.txWrite s.cfg.stx] }
  /-- A RECV of no bytes (rule R242). -/
  | recvEmpty (w : Word) : s.fault = none → s.seq = .idle →
      Transition s (.command w) (completeRecv 0 .ok { s with rvalid := false, rxcount := 0 })
  /-- A RECV that starts (rule R242). -/
  | recvStarted (w : Word) (len : Byte) : s.fault = none → s.seq = .idle → len ≠ 0 →
      Transition s (.command w)
        (emit (.rxRequest len s.timeout) { s with rvalid := false, rxcount := 0, seq := .rx len })
  /-- A transport event nothing waits for (rule R75). -/
  | dropped (i : Input) : (∀ w, i ≠ .command w) → i ≠ .reset → Transition s i s
  /-- A failed write (rule R215). -/
  | writeFailed (body : List Byte) (k : Nat) (pend : List Byte) : s.seq = .tx body k pend →
      Transition s (.txAck false) (completeSend .writeError s)
  /-- The first byte of an escaped pair acknowledged (rule R214). -/
  | pairAcked (body : List Byte) (k : Nat) (a w : Byte) (rest : List Byte) : s.seq = .tx body k (a :: w :: rest) →
      Transition s (.txAck true) (offerItem body k (w :: rest) { s with wire := s.wire ++ [a] })
  /-- The last byte of the frame acknowledged (rule R214). -/
  | sendDone (body : List Byte) (k : Nat) (pend : List Byte) : s.seq = .tx body k pend → pend.drop 1 = [] →
      k = body.length + 2 → Transition s (.txAck true) (completeSend .ok { s with wire := s.wire ++ pend.take 1 })
  /-- The last byte of an item acknowledged, and the next item started (rule R214). -/
  | itemAcked (body : List Byte) (k : Nat) (pend : List Byte) (c : Crc) (p : List Byte) : s.seq = .tx body k pend →
      pend.drop 1 = [] → k ≠ body.length + 2 → p ≠ [] →
      (s.crc = crc16 (body.take k) → c = crc16 (body.take (k + 1)) ∧ p = itemWire s.cfg body (k + 1)) →
      Transition s (.txAck true)
        { s with wire := s.wire ++ pend.take 1, crc := c, seq := .tx body (k + 1) p,
                 outputs := s.outputs ++ (p.take 1).map .txWrite }
  /-- A response byte stored (rule R244). -/
  | byteStored (len b : Byte) : s.seq = .rx len → s.rxcount.toNat < len.toNat → s.rxcount + 1 ≠ len →
      Transition s (.rxByte b) (storeByte b s)
  /-- The last response byte stored (rule R244). -/
  | recvDone (len b : Byte) : s.seq = .rx len → s.rxcount.toNat < len.toNat → s.rxcount + 1 = len →
      Transition s (.rxByte b)
        (completeRecv len (classify s.cfg len (response (storeByte b s) len)) (storeByte b s))
  /-- A read timeout (rule R246). -/
  | recvTimedOut (len : Byte) : s.seq = .rx len → s.rxcount.toNat < len.toNat →
      Transition s .rxTimeout (completeRecv len .readTimeout s)
  /-- The reset input (rule R330). -/
  | reset : Transition s .reset (applyReset s)

/-- Everything the own effect of a command that is not SEND or RECV can do: fault, or answer at once. -/
theorem ownEffect_cases {i : Instr} {s t : State} (h : ownEffect i s = .next t)
    (hs : ∀ cmd n, i ≠ .send cmd n) (hr : ∀ len, i ≠ .recv len) :
    (i ≠ .statusRead ∧ ∃ code, t = raiseFault code s) ∨
    ∃ r c e p ms,
      t = { s with crc := c, escp := e, pbuf := p, timeout := ms, outputs := s.outputs ++ [.rsp r] } ∧
      (r.extractLsb' 24 8).toNat ≤ 2 ∧ (p = s.pbuf ∨ ∃ j v, j < 254 ∧ p = s.pbuf.write j v) ∧
      (i = .statusRead → c = s.crc ∧ e = s.escp ∧ p = s.pbuf ∧ ms = s.timeout) := by
  cases i with
  | send cmd n => exact absurd rfl (hs cmd n)
  | recv len => exact absurd rfl (hr len)
  | pload idx v =>
    cases h
    rcases loadParam_cases idx v s with ⟨hi, h⟩ | ⟨_, h⟩ <;> rw [h]
    · exact .inr ⟨rspNone, s.crc, s.escp, _, s.timeout, rfl, by decide, .inr ⟨_, v, hi, rfl⟩, by simp⟩
    · exact .inl ⟨by simp, _, rfl⟩
  | rread idx =>
    rcases readResponse_cases idx s with ⟨_, h'⟩ | ⟨_, _, h'⟩ | ⟨_, _, b, _, h'⟩ | ⟨_, _, _, h'⟩ <;>
      (rw [ownEffect, h'] at h; cases h)
    · exact .inl ⟨by simp, _, rfl⟩
    · exact .inl ⟨by simp, _, rfl⟩
    · exact .inr ⟨_, s.crc, s.escp, s.pbuf, s.timeout, rfl, by rw [topByte_rspByte]; decide, .inl rfl, by simp⟩
  | crcInit => cases h; exact .inr ⟨rspNone, _, s.escp, s.pbuf, s.timeout, rfl, by decide, .inl rfl, by simp⟩
  | crcUpdate b =>
    cases h
    exact .inr ⟨_, _, s.escp, s.pbuf, s.timeout, rfl, by rw [topByte_rspCrc]; decide, .inl rfl, by simp⟩
  | crcRead =>
    cases h
    exact .inr ⟨_, s.crc, s.escp, s.pbuf, s.timeout, rfl, by rw [topByte_rspCrc]; decide, .inl rfl, by simp⟩
  | stuff b =>
    cases h
    exact .inr ⟨_, s.crc, s.escp, s.pbuf, s.timeout, rfl, topByte_rspStuff_le _ _, .inl rfl, by simp⟩
  | unstuffReset => cases h; exact .inr ⟨rspNone, s.crc, _, s.pbuf, s.timeout, rfl, by decide, .inl rfl, by simp⟩
  | unstuff w =>
    cases h
    exact .inr ⟨_, s.crc, _, s.pbuf, s.timeout, rfl, by rw [topByte_rspEvent]; decide, .inl rfl, by simp⟩
  | statusRead =>
    cases h
    exact .inr ⟨_, s.crc, s.escp, s.pbuf, s.timeout, rfl, by rw [topByte_rspStatus]; decide, .inl rfl, by simp⟩
  | setTimeout ms => cases h; exact .inr ⟨rspNone, s.crc, s.escp, s.pbuf, _, rfl, by decide, .inl rfl, by simp⟩
  | timeoutRead =>
    cases h
    exact .inr ⟨_, s.crc, s.escp, s.pbuf, s.timeout, rfl, by rw [topByte_rspTimeout]; decide, .inl rfl, by simp⟩

/-- A SEND's or RECV's acceptance step is one of the listed transitions. -/
theorem exchange_transition {s : State} (w : Word) (hf : s.fault = none) (hq : s.seq = .idle) :
    (∀ cmd n, Transition s (.command w) (beginSend cmd n s)) ∧
    ∀ len, Transition s (.command w) (beginRecv len s) := by
  constructor
  · intro cmd n
    rcases beginSend_cases cmd n s with ⟨_, h⟩ | ⟨_, _, h⟩ | ⟨_, hl, h⟩ <;> rw [h]
    · exact .sendRejected w hf hq
    · exact .faulted w _ (.inl hf)
    · exact .sendStarted w cmd _ hf hq (by omega)
  · intro len
    rcases beginRecv_cases len s with ⟨_, h⟩ | ⟨hl, h⟩ <;> rw [h]
    · exact .recvEmpty w hf hq
    · exact .recvStarted w len hf hq hl

/-- A command word's every effect is one of the listed transitions. -/
theorem takeCommand_transition {w : Word} {s t : State} (h : takeCommand w s = .next t) :
    Transition s (.command w) t := by
  rcases takeCommand_cases h with ⟨i, hd, h⟩ | ⟨e, _, h⟩
  · rcases exec_cases h.symm with ⟨_, hf, h⟩ | ⟨_, hq, h⟩ | ⟨hf, hq, h⟩
    · cases h; exact .ignored w hf
    · cases h; exact .faulted w _ (.inr hq)
    · by_cases hs : ∃ cmd n, i = .send cmd n
      · obtain ⟨cmd, n, rfl⟩ := hs
        cases h
        exact (exchange_transition w (hf.resolve_right (by simp)) hq).1 cmd n
      · by_cases hr : ∃ len, i = .recv len
        · obtain ⟨len, rfl⟩ := hr
          cases h
          exact (exchange_transition w (hf.resolve_right (by simp)) hq).2 len
        · have hs' : ∀ cmd n, i ≠ .send cmd n := fun cmd n hi => hs ⟨cmd, n, hi⟩
          have hr' : ∀ len, i ≠ .recv len := fun len hi => hr ⟨len, hi⟩
          rcases ownEffect_cases h.symm hs' hr' with ⟨hi, code, rfl⟩ | ⟨r, c, e, p, ms, rfl, ht, hp, hst⟩
          · exact .faulted w code (.inl (hf.resolve_right hi))
          · exact .answered w i r c e p ms hd hs' hr' hq (hf.imp id hst) ht hp
  · rcases accept_cases h.symm with ⟨hf, h⟩ | ⟨_, hq, h⟩ | ⟨hr, h⟩
    · cases h; exact .ignored w hf
    · cases h; exact .faulted w _ (.inr hq)
    · cases h; exact .faulted w _ (.inl hr.noFault)

/-- Everything the answer to a write can do. -/
theorem takeTxAck_transition (ok : Bool) (s : State) : Transition s (.txAck ok) (takeTxAck ok s) := by
  unfold takeTxAck
  split
  · next body k pend hq =>
    cases ok with
    | false => exact .writeFailed body k pend hq
    | true =>
      rw [if_pos rfl]
      rcases txAccepted_cases body k pend s with ⟨w, rest, hp, h⟩ | ⟨hp, hk, h⟩ | ⟨hp, hk, h⟩ <;> rw [h]
      · obtain _ | ⟨a, tail⟩ := pend
        · cases hp
        · rw [List.drop_one, List.tail_cons] at hp
          subst hp
          exact .pairAcked body k a w rest hq
      · exact .sendDone body k pend hq hp hk
      · obtain ⟨c, p, hne, hst⟩ := startItem_eq body (k + 1) { s with wire := s.wire ++ pend.take 1 }
        rw [hst]
        refine .itemAcked body k pend c p hq hp hk hne fun hc => ?_
        rw [startItem_of_crc (by simpa using hc)] at hst
        have hcrc := congrArg State.crc hst
        have hseq := congrArg State.seq hst
        simp only [Seq.tx.injEq, true_and] at hcrc hseq
        exact ⟨hcrc.symm, hseq.symm⟩
  · exact .dropped _ (by simp) (by simp)
  · exact .dropped _ (by simp) (by simp)

/-- Every input's every effect is one of the listed transitions. -/
theorem takeInput_transition {i : Input} {s t : State} (h : takeInput i s = .next t) : Transition s i t := by
  cases i with
  | command w => exact takeCommand_transition h
  | txAck ok => cases h; exact takeTxAck_transition ok s
  | rxByte b =>
    cases h
    rcases takeRxByte_cases b s with h | ⟨len, hq, hl, ⟨hc, h⟩ | ⟨hc, h⟩⟩ <;> rw [h]
    · exact .dropped _ (by simp) (by simp)
    · exact .byteStored len b hq hl hc
    · exact .recvDone len b hq hl hc
  | rxTimeout =>
    cases h
    rcases takeRxTimeout_cases s with h | ⟨len, hq, hl, h⟩ <;> rw [h]
    · exact .dropped _ (by simp) (by simp)
    · exact .recvTimedOut len hq hl
  | reset => cases h; exact .reset

/-- Every step with a next state waits, or consumes an input and makes one of the listed transitions. -/
theorem step_transition {s t : State} (h : step s = .next t) :
    (s.inputs = [] ∧ t = s) ∨ ∃ i rest, s.inputs = i :: rest ∧ Transition { s with inputs := rest } i t := by
  obtain ⟨_, h | ⟨i, rest, hi, h⟩⟩ := step_cases h
  · exact .inl h
  · exact .inr ⟨i, rest, hi, takeInput_transition h⟩

end Sys2Proof.Machine
end

