-- ==== Sys2Proof/Tests/Slice0.lean ====
section
/-! SUPPORT. The model's own tests, each about one step or one function value, with expected results from
spec/95_test_vectors.md (configuration EXCFG); and, for every statement with hypotheses, a witness: concrete states and
operands that meet all of them, at the boundaries of each clause. -/

namespace Sys2Proof.Tests

open Sys2Proof.Machine

/-! ## Helpers -/

/-- The next state of a result, if it has one. -/
def nxt (r : Result) : Option State :=
  match r with
  | .next s => some s
  | .fault _ => none
  | .refused _ => none

/-- The outputs after one step on the input `i`. -/
def outputsOf (i : Input) (s : State) : Option (List Output) :=
  (nxt (step { s with inputs := [i] })).map (·.outputs)

/-- The answer to the one command word `w`, and the status after it. -/
def answer (w : Word) (s : State) : Option (List Output × BitVec 16) :=
  (nxt (step { s with inputs := [.command w] })).map fun t => (t.outputs, statusWord t)

/-- The state after reset. -/
def s0 : State := State.reset

/-- After `PLOAD 0, 'H'` and `PLOAD 1, 'I'`. -/
def loaded : State := { s0 with pbuf := [(0, 0x48), (1, 0x49)] }

/-- Just after the acceptance of `SEND 0x21, 0` (frame F2). -/
def sending : State := { s0 with seq := .tx [0x00, 0x01, 0x21] 0 [0x7E], outputs := [.txWrite 0x7E] }

/-- After item 3 of frame F4 has started, and its first wire byte is acknowledged. -/
def sendingF4 : State :=
  { s0 with
    crc := 0x910D
    seq := .tx [0x00, 0x05, 0x7D, 0x7E, 0x7D, 0xFE, 0xFD] 3 [0xFD]
    outputs := [.txWrite 0xFD] }

/-- A `RECV 6` that has received `A0 A1 A2 b A4`. -/
def receiving (b : Byte) : State :=
  { s0 with seq := .rx 6, rxcount := 5, rbuf := [(0, 0xA0), (1, 0xA1), (2, 0xA2), (3, b), (4, 0xA4)] }

/-- After a `RECV 6` that received `A0 A1 A2 A3 A4 A5`. -/
def responded : State :=
  { s0 with
    result := .ok
    rvalid := true
    rlen := 6
    rxcount := 6
    rbuf := [(0, 0xA0), (1, 0xA1), (2, 0xA2), (3, 0xA3), (4, 0xA4), (5, 0xA5)] }

/-- In the faulted state, with code 2 (`STATUS = 0200`). -/
def faulted : State := { s0 with fault := some .reservedNonzero }

theorem ready_s0 : Ready s0 := ⟨rfl, rfl⟩

/-! ## Well-formedness (rules R9, R113) -/

theorem test_wf_excfg : Config.excfg.wf = true := by decide

theorem test_wf_refuses_stx : ({ Config.excfg with stx := 0x80 } : Config).wf = false := by decide

theorem test_wf_refuses_esc : ({ Config.excfg with esc := 0x80 } : Config).wf = false := by decide

theorem test_wf_refuses_equal : ({ Config.excfg with esc := 0x7E } : Config).wf = false := by decide

theorem test_wf_accepts_any_nak : ({ stx := 0x00, esc := 0x7F, nak := 0xFF } : Config).wf = true := by decide

theorem test_wf_pload_range : (Instr.pload 253 0).wf = true ∧ (Instr.pload 254 0).wf = false := by decide

theorem test_memory_wf : Memory.wf 254 [(0, 1), (253, 2)] = true ∧ Memory.wf 254 [(0, 1), (254, 2)] = false ∧
    Memory.wf 254 [(1, 1), (0, 2)] = false ∧ Memory.wf 254 [(1, 1), (1, 2)] = false := by decide

/-! ## Decoding: words written out from rules R110 and R113, fields `OP`, `A`, `B`, `C` -/

theorem test_decode_crc_init : decode 0b00000001_00000000_00000000_00000000 = .ok .crcInit := by decide

theorem test_decode_crc_update : decode 0b00000010_00110001_00000000_00000000 = .ok (.crcUpdate 0x31) := by decide

theorem test_decode_crc_read : decode 0b00000011_00000000_00000000_00000000 = .ok .crcRead := by decide

theorem test_decode_stuff : decode 0b00010000_01111110_00000000_00000000 = .ok (.stuff 0x7E) := by decide

theorem test_decode_unstuff_reset : decode 0b00100000_00000000_00000000_00000000 = .ok .unstuffReset := by decide

theorem test_decode_unstuff : decode 0b00100001_01111101_00000000_00000000 = .ok (.unstuff 0x7D) := by decide

theorem test_decode_pload : decode 0b00110000_00000001_01001001_00000000 = .ok (.pload 1 0x49) := by decide

theorem test_decode_send : decode 0b00110001_00100001_00000010_00000000 = .ok (.send 0x21 2) := by decide

theorem test_decode_recv : decode 0b01000000_00001100_00000000_00000000 = .ok (.recv 12) := by decide

theorem test_decode_rread : decode 0b01000001_00000101_00000000_00000000 = .ok (.rread 5) := by decide

theorem test_decode_status_read : decode 0b01010000_00000000_00000000_00000000 = .ok .statusRead := by decide

theorem test_decode_set_timeout :
    decode 0b01010001_00010010_00110100_01010110 = .ok (.setTimeout 0x123456) := by decide

theorem test_decode_timeout_read : decode 0b01010010_00000000_00000000_00000000 = .ok .timeoutRead := by decide

theorem test_decode_refuses :
    decode 0x00000000 = .error .illegalOpcode ∧ decode 0xFF000001 = .error .illegalOpcode ∧
    decode 0x31210001 = .error .reservedNonzero ∧ decode 0x31FFFF00 = .ok (.send 0xFF 255) := by decide

theorem test_table_word : decodeTableWord 32 0x30014900 = some (.pload 1 0x49) ∧
    decodeTableWord 32 0x04000000 = none := by decide

/-! ## Function values -/

theorem test_crc_update : crcUpdate 0xFFFF 0x7E = 0xFC06 ∧ crcUpdate 0x1234 0xFF = 0x366E := by decide

theorem test_crc16_check : crc16 [0x31, 0x32, 0x33, 0x34, 0x35, 0x36, 0x37, 0x38, 0x39] = 0xAEE7 := by
  decide +kernel

theorem test_stuff_seq : stuffSeq Config.excfg [0x7E, 0x7D, 0x41] = [0x7D, 0xFE, 0x7D, 0xFD, 0x41] := by decide

theorem test_unstuff_seq_ok :
    unstuffSeq Config.excfg [0x7D, 0xFE, 0x7D, 0xFD, 0x41] = .ok [0x7E, 0x7D, 0x41] := by decide

theorem test_unstuff_seq_errors :
    unstuffSeq Config.excfg [0x41, 0x7E] = .error (.unexpectedStart, 1) ∧
    unstuffSeq Config.excfg [0x7D, 0x7D, 0xFE] = .error (.badEscape, 1) ∧
    unstuffSeq Config.excfg [0x41, 0x7D] = .error (.truncatedEscape, 2) := by decide

theorem test_frame_f4 : frameWire Config.excfg 0x7D [0x7E, 0x7D, 0xFE, 0xFD] =
    [0x7E, 0x00, 0x05, 0x7D, 0xFD, 0x7D, 0xFE, 0x7D, 0xFD, 0xFE, 0xFD, 0x4C, 0xEC] := by decide +kernel

theorem test_frame_f8 : frameWire Config.excfg 0x21 [0x97] = [0x7E, 0x00, 0x02, 0x21, 0x97, 0xC5, 0x7D, 0xFE] := by
  decide +kernel

theorem test_classify : classify Config.excfg 4 [0x00, 0x00, 0x00, 0x15] = .deviceRejected ∧
    classify Config.excfg 3 [0x15, 0x15, 0x15] = .ok ∧
    classify Config.excfg 6 [0xA0, 0xA1, 0xA2, 0x15, 0xA4] = .readTimeout := by decide

/-! ## One step of each command -/

theorem test_crc_init : (nxt (exec .crcInit { s0 with crc := 0x1234 })).map (fun t => (t.crc, t.outputs)) =
    some (0xFFFF, [.rsp 0x00000000]) := by decide

theorem test_crc_update_00 : (nxt (exec (.crcUpdate 0x00) s0)).map (fun t => (t.crc, t.outputs)) =
    some (0xFD02, [.rsp 0x0000FD02]) := by decide

theorem test_crc_update_80 : (nxt (exec (.crcUpdate 0x80) { s0 with crc := 0x8000 })).map (·.crc) = some 0x0000 := by
  decide

theorem test_crc_read : answer 0x03000000 { s0 with crc := 0x1234 } = some ([.rsp 0x00001234], 0) := by decide

theorem test_stuff_marker : answer 0x107D0000 s0 = some ([.rsp 0x02007DFD], 0) := by decide

theorem test_stuff_plain : answer 0x10FE0000 s0 = some ([.rsp 0x0100FE00], 0) := by decide

theorem test_unstuff_reset : (nxt (exec .unstuffReset { s0 with escp := true })).map (·.escp) = some false := by decide

theorem test_unstuff_pending : (nxt (exec (.unstuff 0x7D) s0)).map (fun t => (t.escp, t.outputs)) =
    some (true, [.rsp 0x00000100]) := by decide

theorem test_unstuff_bad_escape :
    (nxt (exec (.unstuff 0x7D) { s0 with escp := true })).map (fun t => (t.escp, t.outputs)) =
    some (false, [.rsp 0x0000037D]) := by decide

theorem test_pload : (nxt (exec (.pload 253 0x55) s0)).map (fun t => (t.pbuf.read 253, pvalid t 253, pvalid t 252)) =
    some (some 0x55, true, false) := by decide

theorem test_pload_range : answer 0x30FE5500 s0 = some ([.rsp 0xFFFFFFFF], 0x0300) := by decide

theorem test_send_255 : answer 0x3121FF00 s0 = some ([.rsp 0x00000005], 0x0005) := by decide

theorem test_send_unwritten : answer 0x31210100 s0 = some ([.rsp 0xFFFFFFFF], 0x0400) := by decide

theorem test_send_accepted : (nxt (exec (.send 0x21 2) loaded)).map (fun t => (t.seq, t.crc, t.outputs)) =
    some (.tx [0x00, 0x03, 0x21, 0x48, 0x49] 0 [0x7E], 0xFFFF, [.txWrite 0x7E]) := by decide

/-- Item 3 of frame F4 is `7D FD`; its second acknowledgement starts item 4, `7D FE`, with CRC 8F61. -/
theorem test_send_next_item : (nxt (takeInput (.txAck true) sendingF4)).map (fun t => (t.seq, t.crc, t.wire)) =
    some (.tx [0x00, 0x05, 0x7D, 0x7E, 0x7D, 0xFE, 0xFD] 4 [0x7D, 0xFE], 0x8F61, [0xFD]) := by decide

theorem test_recv_accepted : answer 0x40060000 s0 = some ([.rxRequest 6 1000], 0x0080) := by decide

theorem test_recv_rejected : outputsOf (.rxByte 0xA5) (receiving 0x15) = some [.rsp 0x00000604] := by decide

theorem test_recv_timeout : outputsOf .rxTimeout (receiving 0x15) = some [.rsp 0x00000503] := by decide

theorem test_rread : answer 0x41050000 responded = some ([.rsp 0x000000A5], 0x0001) := by decide

theorem test_rread_range : answer 0x41060000 responded = some ([.rsp 0xFFFFFFFF], 0x0301) := by decide

theorem test_status_read_faulted : answer 0x50000000 faulted = some ([.rsp 0x00000200], 0x0200) := by decide

theorem test_status_read_ignored : answer 0x50010000 faulted = some ([.rsp 0xFFFFFFFF], 0x0200) := by decide

theorem test_set_timeout : (nxt (exec (.setTimeout 0xFFFFFF) s0)).map (fun t => (t.timeout, t.outputs)) =
    some (0xFFFFFF, [.rsp 0x00000000]) := by decide

theorem test_timeout_read : answer 0x52000000 s0 = some ([.rsp 0x000003E8], 0) := by decide

/-- P6: STATUS_READ while busy faults `BUSY`. -/
theorem test_busy : answer 0x50000000 sending = some ([.txWrite 0x7E, .rsp 0xFFFFFFFF], 0x0500) := by decide

/-- The numbers of ILLEGAL_OPCODE, RESERVED_NONZERO and NO_RESPONSE in STATUS. -/
theorem test_fault_codes : answer 0x04000000 s0 = some ([.rsp 0xFFFFFFFF], 0x0100) ∧
    answer 0x01000001 s0 = some ([.rsp 0xFFFFFFFF], 0x0200) ∧
    answer 0x41000000 s0 = some ([.rsp 0xFFFFFFFF], 0x0600) := by decide

/-- The host's question: the word put where the next command is taken runs as the first command after reset. -/
theorem test_first_command : (nxt (step (State.reset.withFetchWord 32 0x510003E8))).map (·.timeout) = some 1000 ∧
    (nxt (step (State.reset.withFetchWord 32 0x02000000))).map (·.crc) = some 0xFD02 := by decide

/-! ## Witnesses: the hypotheses of each statement can be met -/

/-- The state after reset with the inputs `is`. -/
def withInputs (is : List Input) : State := { s0 with inputs := is }

/-- A `TxAck(true)` for every wire byte of a frame. -/
def acks (cmd : Byte) (ps : List Byte) : List Input :=
  List.replicate (frameWire Config.excfg cmd ps).length (.txAck true)

theorem ready_of {s : State} (hf : s.fault = none) (hq : s.seq = .idle) : Ready s := ⟨hf, hq⟩

/-- Every buffer index below `n` holds a byte. -/
theorem filled_of {m : Memory} {n : Nat} (h : ∀ i < n, (Memory.read m i).isSome = true) :
    ∀ i < n, ∃ b, Memory.read m i = some b := fun i hi => Option.isSome_iff_exists.mp (h i hi)

/-- The invariant holds in a state with a RECV in progress. -/
theorem inv_receiving : Inv (receiving 0x15) where
  pbufForm := by decide
  rbufForm := by decide
  received := filled_of (by decide)
  readable := by decide
  quiescent := by decide
  sending := fun _ _ _ h => by cases h
  receiving := fun len h => by cases h; exact ⟨by decide, rfl⟩

/-- The invariant holds in a state with a SEND in progress. -/
theorem inv_sending : Inv sending where
  pbufForm := by decide
  rbufForm := by decide
  received := filled_of (by decide)
  readable := by decide
  quiescent := by decide
  sending := fun body k pend h => by
    cases h
    exact ⟨⟨0x21, [], rfl, by decide⟩, by decide, by decide, ⟨by decide, by decide⟩, rfl⟩
  receiving := fun _ h => by cases h

/-- The invariant holds in a faulted state. -/
theorem inv_faulted : Inv faulted where
  pbufForm := by decide
  rbufForm := by decide
  received := filled_of (by decide)
  readable := by decide
  quiescent := fun _ => rfl
  sending := fun _ _ _ h => by cases h
  receiving := fun _ h => by cases h

/-! ### Encoding -/

theorem witness_EncodeOfDecode : decode 0x31210200 = .ok (.send 0x21 2) ∧ decode 0x51FFFFFF = .ok (.setTimeout 0xFFFFFF) := by
  decide

theorem witness_DecoderAgreesWithOpcodeTable :
    (0x30FEFF00#32 &&& tableMask .pload = tableMatch .pload) ∧ ¬ (0x30FEFF01#32 &&& tableMask .pload = tableMatch .pload) := by
  decide

/-- Each clause of rule R113's map has a word; the operands are at a bound. -/
theorem witness_OpcodeMapAsListed_rows :
    fieldOp 0x01000000 = 0x01 ∧ (fieldOp 0x02FF0000 = 0x02 ∧ fieldB 0x02FF0000 = 0 ∧ fieldC 0x02FF0000 = 0) ∧
    fieldOp 0x03000000 = 0x03 ∧ (fieldOp 0x10FF0000 = 0x10 ∧ fieldB 0x10FF0000 = 0 ∧ fieldC 0x10FF0000 = 0) ∧
    fieldOp 0x20000000 = 0x20 ∧ (fieldOp 0x21FF0000 = 0x21 ∧ fieldB 0x21FF0000 = 0 ∧ fieldC 0x21FF0000 = 0) ∧
    (fieldOp 0x30FDFF00 = 0x30 ∧ fieldC 0x30FDFF00 = 0) ∧ (fieldOp 0x31FFFF00 = 0x31 ∧ fieldC 0x31FFFF00 = 0) ∧
    (fieldOp 0x40FF0000 = 0x40 ∧ fieldB 0x40FF0000 = 0 ∧ fieldC 0x40FF0000 = 0) ∧
    (fieldOp 0x41FF0000 = 0x41 ∧ fieldB 0x41FF0000 = 0 ∧ fieldC 0x41FF0000 = 0) ∧
    (fieldOp 0x50000000 = 0x50 ∧ fieldA 0x50000000 = 0 ∧ fieldB 0x50000000 = 0 ∧ fieldC 0x50000000 = 0) ∧
    fieldOp 0x51FFFFFF = 0x51 ∧ fieldOp 0x52000000 = 0x52 := by decide

/-- The bounds of each range of illegal operation codes, in a CORE that accepts commands. -/
theorem witness_OpcodeMapAsListed_illegal : Ready s0 ∧
    ∀ op ∈ [0x00#8, 0x04, 0x0F, 0x11, 0x1F, 0x22, 0x2F, 0x32, 0x3F, 0x42, 0x4F, 0x53, 0xFF], opcodeOfByte op = none :=
  ⟨ready_s0, by decide⟩

theorem witness_ReservedFieldFaults : Ready s0 ∧
    (fieldOp 0x50010000 = opcodeByte .statusRead ∧ usesA .statusRead = false ∧ fieldA 0x50010000 ≠ 0) ∧
    (fieldOp 0x02000100 = opcodeByte .crcUpdate ∧ usesB .crcUpdate = false ∧ fieldB 0x02000100 ≠ 0) ∧
    (fieldOp 0x30004801 = opcodeByte .pload ∧ usesC .pload = false ∧ fieldC 0x30004801 ≠ 0) := ⟨ready_s0, by decide⟩

theorem witness_AssembledWordsPlaceOperands :
    assemble .setTimeout [16777215] = some (.setTimeout 0xFFFFFF) ∧ assemble .setTimeout [16777216] = none ∧
    assemble .pload [255, 72] = some (.pload 255 72) ∧ assemble .crcInit [] = some .crcInit := by decide

/-! ### The step, the invariant, reset -/

theorem witness_StepRunsDecodedCommand :
    let s := withInputs [.command 0x31210200, .txAck true]
    s.cfg.wf = true ∧ s.inputs = .command 0x31210200 :: [.txAck true] ∧ decode 0x31210200 = .ok (.send 0x21 2) := by
  decide

theorem witness_IllFormedInstanceRefused :
    ¬ (0x80#8).toNat < 0x80 ∧
    (∀ c ∈ [{ Config.excfg with stx := 0x80 }, { Config.excfg with esc := 0x80 }, { Config.excfg with esc := 0x7E }],
      ¬ (c.stx.toNat < 0x80 ∧ c.esc.toNat < 0x80 ∧ c.stx ≠ c.esc)) := by decide

theorem witness_WaitsWithoutInput :
    (s0.cfg.wf = true ∧ s0.inputs = []) ∧ (sending.cfg.wf = true ∧ sending.inputs = [] ∧ busyFlag sending.seq = true) := by
  decide

theorem witness_EveryStepCompletes : Inv (receiving 0x15) ∧ (receiving 0x15).cfg.wf = true := ⟨inv_receiving, by decide⟩

theorem witness_StepKeepsInv : Inv sending ∧ ∃ t, step sending = .next t := ⟨inv_sending, sending, rfl⟩

theorem witness_ParametersNeverChange : ∃ t, step (withInputs [.reset]) = .next t := ⟨_, rfl⟩

theorem witness_UnawaitedEventDropped :
    let s := withInputs [.txAck false]
    s.cfg.wf = true ∧ s.inputs = .txAck false :: [] ∧ awaited s (.txAck false) = false ∧ awaited sending (.rxByte 0) = false ∧
      awaited (receiving 0) (.txAck true) = false := by decide

/-- A stale byte: index 5 of a RECV that has received five. -/
theorem witness_StaleResponseBytesNeverShow :
    SameButStaleBytes (receiving 0x15) { receiving 0x15 with rbuf := (receiving 0x15).rbuf ++ [(5, 0xEE)] } ∧
    Inv (receiving 0x15) ∧ ∃ t, step (receiving 0x15) = .next t :=
  ⟨⟨rfl, by decide⟩, inv_receiving, _, rfl⟩

theorem witness_ResetInputRestoresEverything :
    let s := { sending with inputs := [.reset, .txAck true] }
    s.cfg.wf = true ∧ s.inputs = .reset :: [.txAck true] ∧ busyFlag s.seq = true := by decide

/-! ### The CRC generator, the stuffer, the unstuffer -/

/-- Of CrcInitAndReadEffects, CrcUpdateEffect, StuffEffect, UnstuffEffects, PloadEffect, SendAcceptance, RecvAcceptance,
RreadEffect and TimeoutCommandsEffects: a CORE that accepts commands, out of reset and after an exchange. -/
theorem witness_Ready : Ready s0 ∧ Ready loaded ∧ Ready responded := ⟨ready_s0, ⟨rfl, rfl⟩, ⟨rfl, rfl⟩⟩

theorem witness_CrcBlockAnswersChecksum :
    let s := withInputs (commandInputs (crcBlock [0x31, 0x32]) ++ [.reset])
    Ready s ∧ s.cfg.wf = true ∧ s.inputs = commandInputs (crcBlock [0x31, 0x32]) ++ [.reset] :=
  ⟨⟨rfl, rfl⟩, by decide, rfl⟩

theorem witness_CrcCommandsFrame : (∃ t, exec .crcInit s0 = .next t) ∧ (∃ t, exec (.crcUpdate 0xFF) s0 = .next t) ∧
    (∃ t, exec .crcRead faulted = .next t) ∧ ∃ t, exec .crcRead sending = .next t :=
  ⟨⟨_, rfl⟩, ⟨_, rfl⟩, ⟨_, rfl⟩, _, rfl⟩

theorem witness_Config : Config.excfg.wf = true ∧ ({ stx := 0x00, esc := 0x7F, nak := 0x80 } : Config).wf = true := by
  decide

theorem witness_UnstuffCommandsRecoverBytes :
    let is := commandInputs ((stuffSeq Config.excfg [0x7E, 0x41]).map .unstuff)
    Ready (withInputs is) ∧ (withInputs is).cfg.wf = true ∧ (withInputs is).escp = false ∧
      (withInputs is).inputs = commandInputs ((stuffSeq (withInputs is).cfg [0x7E, 0x41]).map .unstuff) ++ [] :=
  ⟨⟨rfl, rfl⟩, by decide, rfl, rfl⟩

theorem witness_StufferAndExchangesKeepApart :
    ((∃ t, exec (.stuff 0x7E) sending = .next t) ∧ (∃ t, exec (.stuff 0x7E) s0 = .next t) ∧ (∃ t, exec .unstuffReset s0 = .next t) ∧
      ∃ t, exec (.unstuff 0x7D) s0 = .next t) ∧
    ((∃ t, exec (.send 0x21 2) loaded = .next t) ∧ ∃ t, exec (.recv 6) s0 = .next t) ∧
    (∃ t, takeInput (.txAck true) sending = .next t) ∧ (∃ t, takeInput (.rxByte 0) (receiving 0) = .next t) ∧
    ∃ t, takeInput .rxTimeout (receiving 0) = .next t :=
  ⟨⟨⟨_, rfl⟩, ⟨_, rfl⟩, ⟨_, rfl⟩, _, rfl⟩, ⟨⟨_, rfl⟩, _, rfl⟩, ⟨_, rfl⟩, ⟨_, rfl⟩, _, rfl⟩

/-! ### The frame encoder -/

theorem witness_PloadEffect : Ready s0 ∧ (253#8).toNat < 254 ∧ 254 ≤ (254#8).toNat := ⟨ready_s0, by decide⟩

/-- The three clauses of the acceptance of SEND: 255 parameters; one unwritten; all written, at 254 and below. -/
theorem witness_SendAcceptance :
    255 ≤ (255#8).toNat ∧ ((254#8).toNat ≤ 254 ∧ ∃ j < (254#8).toNat, pvalid loaded j = false) ∧
    ((2#8).toNat ≤ 254 ∧ [0x48#8, 0x49].length = (2#8).toNat ∧
      ∀ j < (2#8).toNat, loaded.pbuf.read j = [0x48#8, 0x49][j]?) :=
  ⟨by decide, ⟨by decide, 2, by decide, by decide⟩, by decide⟩

/-- Its four clauses: the second byte of a pair, completion, a body byte, and each checksum byte. -/
theorem witness_AcknowledgedWriteAdvances :
    let body := [0x00#8, 0x01, 0x7E]
    sending.cfg.wf = true ∧ [0x00#8, 0x01, 0x21][0]? = some 0x00#8 ∧ body[2]? = some 0x7E#8 ∧ body[3]? = none ∧
      5 = body.length + 2 ∧ 3 = body.length ∧ 4 = body.length + 1 ∧
      { sending with inputs := [.txAck true] }.inputs = .txAck true :: [] ∧
      sending.seq = .tx [0x00, 0x01, 0x21] 0 (0x7E :: []) ∧
      { sending with seq := .tx body 3 [0x7D, 0xFE] }.seq = .tx body 3 (0x7D :: [0xFE]) := by decide

theorem witness_FailedWriteEndsSend :
    let s := { sendingF4 with inputs := [.txAck false] }
    s.cfg.wf = true ∧ s.inputs = .txAck false :: [] ∧
      s.seq = .tx [0x00, 0x05, 0x7D, 0x7E, 0x7D, 0xFE, 0xFD] 3 [0xFD] := by decide

theorem witness_SendPutsFrameOnWire :
    let s := { loaded with inputs := .command (encode (.send 0x21 (BitVec.ofNat 8 2))) :: (acks 0x21 [0x48, 0x49] ++ []) }
    Ready s ∧ s.cfg.wf = true ∧ [0x48#8, 0x49].length ≤ 254 ∧
      (∀ j < [0x48#8, 0x49].length, s.pbuf.read j = [0x48#8, 0x49][j]?) ∧
      s.inputs = .command (encode (.send 0x21 (BitVec.ofNat 8 [0x48#8, 0x49].length))) ::
        (List.replicate (frameWire s.cfg 0x21 [0x48, 0x49]).length (.txAck true) ++ []) :=
  ⟨⟨rfl, rfl⟩, by decide, by decide, by decide, rfl⟩

theorem witness_FrameCommandsPutFrameOnWire :
    let s := withInputs (commandInputs (frameCommands 0x7E []) ++ (acks 0x7E [] ++ [.reset]))
    Ready s ∧ s.cfg.wf = true ∧ ([] : List Byte).length ≤ 254 ∧
      s.inputs = commandInputs (frameCommands 0x7E []) ++
        (List.replicate (frameWire s.cfg 0x7E []).length (.txAck true) ++ [.reset]) :=
  ⟨⟨rfl, rfl⟩, by decide, by decide, rfl⟩

/-- The last item's second wire byte fails: frame F8, `CRC_LO = 7E`, at `k = n + 5`. -/
theorem witness_FailedSendKeepsPartialChecksum :
    let body := [0x00, BitVec.ofNat 8 (1 + [0x97#8].length), 0x21] ++ [0x97#8]
    let sent := ((List.range 6).map (itemWire Config.excfg body)).flatten ++ (itemWire Config.excfg body 6).take 1
    let s := { s0 with
      pbuf := [(0, 0x97)]
      inputs := .command (encode (.send 0x21 (BitVec.ofNat 8 1))) ::
        (List.replicate sent.length (.txAck true) ++ .txAck false :: []) }
    Ready s ∧ s.cfg.wf = true ∧ [0x97#8].length ≤ 254 ∧
      (∀ j < [0x97#8].length, s.pbuf.read j = [0x97#8][j]?) ∧ 6 ≤ [0x97#8].length + 5 ∧
      sent = [0x7E, 0x00, 0x02, 0x21, 0x97, 0xC5, 0x7D] ∧ 1 < (itemWire s.cfg body 6).length :=
  ⟨⟨rfl, rfl⟩, by decide, by decide, by decide, by decide, by decide +kernel, by decide +kernel⟩

theorem witness_SameSendSameBytes :
    let once := Input.command (encode (.send 0x21 (BitVec.ofNat 8 [0x48#8, 0x49].length))) :: acks 0x21 [0x48, 0x49]
    let s := { loaded with inputs := once ++ once ++ [] }
    Ready s ∧ s.cfg.wf = true ∧ [0x48#8, 0x49].length ≤ 254 ∧
      (∀ j < [0x48#8, 0x49].length, s.pbuf.read j = [0x48#8, 0x49][j]?) :=
  ⟨⟨rfl, rfl⟩, by decide, by decide, by decide⟩

/-- Of FrameShape and FrameDeterminesCommand: no parameters, and 254 of them. -/
theorem witness_FrameShape : Config.excfg.wf = true ∧ ([] : List Byte).length ≤ 254 ∧
    (List.replicate 254 (0x00#8)).length ≤ 254 := ⟨by decide, by decide, List.length_replicate.le⟩

theorem witness_FrameDeterminesCommand : frameWire Config.excfg 0x21 [0x17] = frameWire Config.excfg 0x21 [0x17] := rfl

theorem witness_SendInProgressStep :
    let s := { sendingF4 with inputs := [.txAck true] }
    ∃ t, step s = .next t ∧ s.seq = .tx [0x00, 0x05, 0x7D, 0x7E, 0x7D, 0xFE, 0xFD] 3 (0xFD :: []) ∧
      t.seq = .tx [0x00, 0x05, 0x7D, 0x7E, 0x7D, 0xFE, 0xFD] 4 [0x7D, 0xFE] := ⟨_, rfl, rfl, by decide⟩

theorem witness_WireIsNeverRetracted : ∃ t, step { sendingF4 with inputs := [.reset], wire := [0x7E] } = .next t :=
  ⟨_, rfl⟩

/-! ### The frame decoder -/

theorem witness_RecvAcceptance : Ready s0 ∧ (0#8 : Byte) = 0 ∧ (255#8 : Byte) ≠ 0 ∧ (1#8 : Byte) ≠ 0 :=
  ⟨ready_s0, by decide⟩

/-- A rejected response at the shortest length that can be one, and a good one of the same bytes at length 3. -/
theorem witness_RecvReceivesResponse :
    let bs := [0x00#8, 0x00, 0x00, 0x15]
    let s := withInputs (.command (encode (.recv 4)) :: (bs.map .rxByte ++ []))
    Ready s ∧ s.cfg.wf = true ∧ (4#8 : Byte) ≠ 0 ∧ bs.length = (4#8).toNat ∧ (4 ≤ bs.length ∧ bs[3]? = some s.cfg.nak) ∧
      ¬ (4 ≤ [0x15#8, 0x15, 0x15].length ∧ [0x15#8, 0x15, 0x15][3]? = some s.cfg.nak) ∧
      [0x15#8, 0x15, 0x15].length = (3#8).toNat :=
  ⟨⟨rfl, rfl⟩, by decide⟩

theorem witness_RecvCutShortTimesOut :
    let bs := [0xA0#8, 0xA1, 0xA2, 0x15, 0xA4]
    let s := withInputs (.command (encode (.recv 6)) :: (bs.map .rxByte ++ .rxTimeout :: []))
    Ready s ∧ s.cfg.wf = true ∧ bs.length < (6#8).toNat ∧ ([] : List Byte).length < (1#8).toNat :=
  ⟨⟨rfl, rfl⟩, by decide⟩

theorem witness_RecvEnds :
    let s := { receiving 0x15 with inputs := [Input.rxTimeout] ++ [] }
    s.cfg.wf = true ∧ s.seq = .rx 6 ∧ s.rxcount.toNat < (6#8).toNat ∧
      EndsRead ((6#8).toNat - s.rxcount.toNat) [.rxTimeout] ∧ EndsRead ((6#8).toNat - s.rxcount.toNat) [.rxByte 0xA5] :=
  ⟨by decide, rfl, by decide, .inr ⟨[], by decide, rfl⟩, .inl ⟨[0xA5], by decide, rfl⟩⟩

/-- The three clauses of RREAD, the last at its upper bound. -/
theorem witness_RreadEffect :
    s0.rvalid = false ∧ (responded.rvalid = true ∧ responded.rlen.toNat ≤ (6#8).toNat) ∧
    (responded.rvalid = true ∧ (5#8).toNat < responded.rlen.toNat ∧ responded.rbuf.read (5#8).toNat = some 0xA5) ∧
    ({ responded with rlen := 0 }.rlen.toNat ≤ (0#8).toNat) := by decide

theorem witness_ExchangeFrames :
    (∃ t, exec (.send 0x21 2) loaded = .next t) ∧ (∃ t, takeInput (.txAck false) sending = .next t) ∧
    (∃ t, exec (.recv 0) s0 = .next t) ∧ (∃ t, takeInput (.rxByte 0xA5) (receiving 0) = .next t) ∧
    ∃ t, takeInput .rxTimeout (receiving 0) = .next t := ⟨⟨_, rfl⟩, ⟨_, rfl⟩, ⟨_, rfl⟩, ⟨_, rfl⟩, _, rfl⟩

/-! ### Control, results and faults -/

theorem witness_StatusReadEffect : s0.seq = .idle ∧ faulted.seq = .idle ∧ faulted.fault ≠ none := by decide

theorem witness_CommandWhileBusyFaults :
    let s := { sending with inputs := [.command 0x50000000] }
    s.cfg.wf = true ∧ s.inputs = .command 0x50000000 :: [] ∧ s.fault = none ∧ s.seq ≠ .idle := by decide

theorem witness_FaultedStateIsQuiescent :
    (∀ i ∈ [Input.command 0x50010000, .command 0x50000000, .txAck true, .rxByte 0, .rxTimeout],
      let s := { faulted with inputs := [i] }
      s.cfg.wf = true ∧ s.fault ≠ none ∧ s.seq = .idle ∧ s.inputs = i :: []) ∧ (0x50010000#32 ≠ 0x50000000) := by decide

theorem witness_OnlyResetLeavesFault :
    Inv faulted ∧ faulted.fault = some .reservedNonzero ∧ (∃ t, step faulted = .next t) ∧
      faulted.inputs.head? ≠ some .reset := ⟨inv_faulted, rfl, ⟨_, rfl⟩, by decide⟩

/-- A step that raises each fault code, from a state with none: of FaultEntryIsPrecise and FaultCauses. -/
theorem witness_FaultCauses :
    (nxt (step (withInputs [.command 0xFF000001]))).map (·.fault) = some (some .illegalOpcode) ∧
    (nxt (step (withInputs [.command 0x01000001]))).map (·.fault) = some (some .reservedNonzero) ∧
    (nxt (step (withInputs [.command 0x30FE0000]))).map (·.fault) = some (some .indexRange) ∧
    (nxt (step { responded with inputs := [.command 0x41060000] })).map (·.fault) = some (some .indexRange) ∧
    (nxt (step (withInputs [.command 0x31210100]))).map (·.fault) = some (some .unwrittenParam) ∧
    (nxt (step { sending with inputs := [.command 0x00000000] })).map (·.fault) = some (some .busy) ∧
    (nxt (step (withInputs [.command 0x41000000]))).map (·.fault) = some (some .noResponse) := by decide

theorem witness_FaultAnswerIsUnambiguous : ∃ t, step (withInputs [.command 0x107E0000]) = .next t := ⟨_, rfl⟩

theorem witness_OneResponsePerCommand :
    (Ready s0 ∧ (∃ t, exec .timeoutRead s0 = .next t) ∧ ∃ t, exec (.recv 1) s0 = .next t) ∧
    sending.seq ≠ .idle ∧ (∃ t, takeInput (.txAck true) sending = .next t) ∧
    (receiving 0).seq ≠ .idle ∧ ∃ t, takeInput (.rxByte 0xA5) (receiving 0) = .next t :=
  ⟨⟨ready_s0, ⟨_, rfl⟩, _, rfl⟩, by decide, ⟨_, rfl⟩, by decide, _, rfl⟩

theorem witness_OnlyExchangesWriteResult :
    (∃ t, exec (.rread 0) responded = .next t) ∧ ∃ t, step (withInputs []) = .next t ∧ t.result = .none :=
  ⟨⟨_, rfl⟩, _, rfl, rfl⟩

/-- The version query: RECV 12 on `OK`, none after a failed write; the first failure is the outcome. -/
theorem test_host_outcome (c : CommandBytes) :
    hostFollowUp c .version .ok = [.recv 12] ∧ hostFollowUp c .version .writeError = [] ∧
    hostFollowUp c .factoryReset .ok = [] ∧ hostOutcome c .version .writeError .ok = .writeError ∧
    hostOutcome c .version .ok .readTimeout = .readTimeout ∧ hostOutcome c .factoryReset .ok .readTimeout = .ok :=
  ⟨rfl, rfl, rfl, rfl, rfl, rfl⟩

/-- Both outcomes of the host's validation, at the bound. -/
theorem witness_HostOperationsFit (c : CommandBytes) :
    (hostFrame c (.displayText (List.replicate 254 0x41))).isSome = true ∧
    (hostFrame c (.displayText (List.replicate 255 0x41))) = none ∧ (hostTriple c .factoryReset).2.2 = none ∧
    (hostTriple c .version).2.2 = some 12 ∧ ResultCode.writeError ≠ .ok := by
  refine ⟨?_, ?_, rfl, rfl, by decide⟩
  · simp only [hostFrame, hostTriple, List.length_replicate, le_refl, if_true, Option.isSome_some]
  · rw [hostFrame, if_neg (by simp only [hostTriple, List.length_replicate]; decide)]

end Sys2Proof.Tests
end

section
/-! The scope statements (rule R9): which instances are refused, and what the constraint says of the markers. -/

namespace Sys2Proof.Machine

theorem step_illFormed {s : State} (h : ¬ s.cfg.wf = true) : step s = .refused .illFormedConfig :=
  if_neg h

theorem markers_nodup {c : Config} (h : c.wf = true) :
    [c.stx, c.esc, c.stx ||| 0x80#8, c.esc ||| 0x80#8].Nodup := by
  obtain ⟨stx_esc, stxEscaped_stx, stxEscaped_esc, escEscaped_stx, escEscaped_esc, escaped_escaped⟩ :=
    markers_distinct h
  simp only [List.nodup_cons, List.mem_cons, List.not_mem_nil, or_false, not_or, not_false_eq_true,
    List.nodup_nil, and_true]
  exact ⟨⟨stx_esc, stxEscaped_stx.symm, escEscaped_stx.symm⟩, ⟨stxEscaped_esc.symm, escEscaped_esc.symm⟩,
    escaped_escaped⟩

/-- Settles O9: both halves turn on `Config.wf`, which is rule R9's constraint. -/
theorem illFormedInstanceRefused : Obligations.IllFormedInstanceRefused := by
  unfold Obligations.IllFormedInstanceRefused
  constructor
  · intro s hbroken
    exact step_illFormed fun hw => hbroken (wf_iff.mp hw)
  · intro c hc
    exact markers_nodup (wf_iff.mpr hc)

end Sys2Proof.Machine
end

section
/-! The status register and the reset values: what each field of `statusWord` holds (rule R34), the bounds of the fault
and result codes, and rule R49's table. -/

namespace Sys2Proof.Machine

@[simp] theorem statusWord_faultField (s : State) : (statusWord s).extractLsb' 8 8 = faultField s.fault := by
  unfold statusWord
  rw [BitVec.extractLsb'_append_eq_of_le (by decide), BitVec.extractLsb'_append_eq_of_le (by decide)]
  exact BitVec.extractLsb'_append_eq_left

theorem statusWord_busyBit (s : State) : (statusWord s).getLsbD 7 = busyFlag s.seq := by
  unfold statusWord
  rw [BitVec.getLsbD_append, if_neg (by decide), BitVec.getLsbD_append, if_neg (by decide), BitVec.getLsbD_append,
    if_pos (by decide), BitVec.getLsbD_ofBool]
  rfl

@[simp] theorem statusWord_hardwiredBits (s : State) : (statusWord s).extractLsb' 3 4 = 0#4 :=
  (BitVec.extractLsb'_append_eq_of_le (by decide)).trans BitVec.extractLsb'_append_eq_right

@[simp] theorem statusWord_resultBits (s : State) : (statusWord s).extractLsb' 0 3 = resultBits s.result :=
  BitVec.extractLsb'_append_eq_right

theorem faultByte_le_six (c : FaultCode) : (faultByte c).toNat ≤ 6 := by cases c <;> decide

theorem faultField_le_six (f : Option FaultCode) : (faultField f).toNat ≤ 6 := by
  cases f with
  | none => decide
  | some c => exact faultByte_le_six c

theorem resultBits_le_five (r : ResultCode) : (resultBits r).toNat ≤ 5 := by cases r <;> decide

/-- Settles O49: field by field of `statusWord`, with BUSY read off the sequencer (rule R36); the code numbers are the
closed tables of rules R35 and R293. -/
theorem statusLayout : Obligations.StatusLayout := by
  unfold Obligations.StatusLayout
  intro s
  have busy : (statusWord s).getLsbD 7 = true ↔ s.seq ≠ .idle := by
    rw [statusWord_busyBit, busyFlag_eq_true]
  exact ⟨statusWord_faultField s, busy, statusWord_hardwiredBits s, statusWord_resultBits s,
    faultField_le_six s.fault, resultBits_le_five s.result, by decide⟩

/-- STATUS reads 0 when there is no fault, no exchange in progress and no result yet. -/
theorem statusWord_eq_zero {s : State} (hf : s.fault = none) (hq : s.seq = .idle) (hr : s.result = .none) :
    statusWord s = 0 := by
  rw [statusWord, hf, hq, hr]
  decide

/-- PVALID is 0 at every index when nothing has been written (rule R39). -/
theorem pvalid_of_pbuf_nil {s : State} (h : s.pbuf = []) (i : Nat) : pvalid s i = false := by
  rw [pvalid, h, Memory.read_nil]
  rfl

/-- Settles O17: STATUS and PVALID, which have no storage of their own, follow from the fields they are read from; every
other clause is a field of `State.resetWith`. -/
theorem resetValues : Obligations.ResetValues := by
  unfold Obligations.ResetValues
  intro c s
  have status : statusWord s = 0x0000 := statusWord_eq_zero rfl rfl rfl
  have unwritten : ∀ i, pvalid s i = false := pvalid_of_pbuf_nil rfl
  exact ⟨rfl, rfl, rfl, rfl, busyFlag_idle, rfl, status, unwritten, rfl, rfl, rfl, rfl⟩

end Sys2Proof.Machine
end

section
/-! The command word (rules R112, R113): a listed word decodes to its row; an illegal operation code and a must-be-0
field that is not zero fault, with the fault's whole effect in a CORE that accepts commands. -/

namespace Sys2Proof

/-- A word of a listed operation code whose must-be-0 fields are zero decodes to the code's row. -/
theorem decode_row {w : Word} {o : Opcode} (hop : fieldOp w = opcodeByte o) (hA : usesA o = false → fieldA w = 0)
    (hB : usesB o = false → fieldB w = 0) (hC : usesC o = false → fieldC w = 0) : decode w = .ok (buildInstr o w) :=
  decode_eq_ok.mpr ⟨o, hop, reservedZero_iff.mpr ⟨hA, hB, hC⟩, rfl⟩

theorem decode_row_noOperand (o : Opcode) {w : Word}
    (h : fieldOp w = opcodeByte o ∧ fieldA w = 0 ∧ fieldB w = 0 ∧ fieldC w = 0) : decode w = .ok (buildInstr o w) := by
  obtain ⟨hop, hA, hB, hC⟩ := h
  exact decode_row hop (fun _ => hA) (fun _ => hB) (fun _ => hC)

theorem decode_row_operandA (o : Opcode) {w : Word} (useA : usesA o = true)
    (h : fieldOp w = opcodeByte o ∧ fieldB w = 0 ∧ fieldC w = 0) : decode w = .ok (buildInstr o w) := by
  obtain ⟨hop, hB, hC⟩ := h
  exact decode_row hop (by simp [useA]) (fun _ => hB) (fun _ => hC)

theorem decode_row_operandsAB (o : Opcode) {w : Word} (useA : usesA o = true) (useB : usesB o = true)
    (h : fieldOp w = opcodeByte o ∧ fieldC w = 0) : decode w = .ok (buildInstr o w) := by
  obtain ⟨hop, hC⟩ := h
  exact decode_row hop (by simp [useA]) (by simp [useB]) (fun _ => hC)

/-- SET_TIMEOUT has no must-be-0 field, and its operand is the fields `A`, `B` and `C` together. -/
theorem decode_setTimeout {w : Word} (hop : fieldOp w = 0x51) :
    decode w = .ok (.setTimeout (fieldA w ++ fieldB w ++ fieldC w)) := by
  rw [← fieldT_eq]
  exact decode_row (o := .setTimeout) hop nofun nofun nofun

/-- The illegal values of `OP`, as rule R113 lists them. -/
def IllegalOp (op : Nat) : Prop :=
  op = 0x00 ∨ (0x04 ≤ op ∧ op ≤ 0x0F) ∨ (0x11 ≤ op ∧ op ≤ 0x1F) ∨ (0x22 ≤ op ∧ op ≤ 0x2F) ∨
    (0x32 ≤ op ∧ op ≤ 0x3F) ∨ (0x42 ≤ op ∧ op ≤ 0x4F) ∨ (0x53 ≤ op ∧ op ≤ 0xFF)

theorem not_illegalOp_opcodeByte (o : Opcode) : ¬ IllegalOp (opcodeByte o).toNat := by
  unfold IllegalOp
  cases o <;> decide

theorem decode_of_illegalOp {w : Word} (h : IllegalOp (fieldOp w).toNat) : decode w = .error .illegalOpcode :=
  decode_eq_illegal.mpr fun o hop => not_illegalOp_opcodeByte o (hop ▸ h)

theorem decode_of_reserved_ne_zero {w : Word} {o : Opcode} (hop : fieldOp w = opcodeByte o)
    (h : (usesA o = false ∧ fieldA w ≠ 0) ∨ (usesB o = false ∧ fieldB w ≠ 0) ∨ (usesC o = false ∧ fieldC w ≠ 0)) :
    decode w = .error .reservedNonzero := by
  refine decode_eq_reserved.mpr ⟨o, hop, Bool.eq_false_iff.mpr fun hzero => ?_⟩
  obtain ⟨hA, hB, hC⟩ := reservedZero_iff.mp hzero
  obtain ⟨unused, hne⟩ | ⟨unused, hne⟩ | ⟨unused, hne⟩ := h
  · exact hne (hA unused)
  · exact hne (hB unused)
  · exact hne (hC unused)

end Sys2Proof

namespace Sys2Proof.Machine

/-- With no exchange to abandon, fault entry writes the code and the answer, and nothing else. -/
theorem raiseFault_of_idle {s : State} (h : s.seq = .idle) (c : FaultCode) :
    raiseFault c s = { s with fault := some c, outputs := s.outputs ++ [.rsp 0xFFFFFFFF] } := by
  simp [raiseFault, respond, emit, rspFault, h]

/-- The whole effect of a word that selects no command, in a CORE that accepts commands. -/
theorem takeCommand_undecoded {w : Word} {s : State} {e : DecodeError} (hr : Ready s) (hd : decode w = .error e) :
    takeCommand w s =
      .next { s with fault := some (decodeFault e), outputs := s.outputs ++ [.rsp 0xFFFFFFFF] } := by
  simp only [takeCommand, hd, accept_ready hr, raiseFault_of_idle hr.idle]

/-- Settles O5: each listed row by the fields it uses; no listed code lies in an illegal range, so a word whose `OP`
does is undecoded and faults. -/
theorem opcodeMapAsListed : Obligations.OpcodeMapAsListed := by
  unfold Obligations.OpcodeMapAsListed
  intro w
  exact ⟨decode_row_noOperand .crcInit, decode_row_operandA .crcUpdate rfl, decode_row_noOperand .crcRead,
    decode_row_operandA .stuff rfl, decode_row_noOperand .unstuffReset, decode_row_operandA .unstuff rfl,
    decode_row_operandsAB .pload rfl rfl, decode_row_operandsAB .send rfl rfl,
    decode_row_operandA .recv rfl, decode_row_operandA .rread rfl,
    decode_row_noOperand .statusRead, decode_setTimeout, decode_row_noOperand .timeoutRead,
    fun illegal _ hr => takeCommand_undecoded hr (decode_of_illegalOp illegal)⟩

/-- Settles O6: such a word is undecoded, and the fault is entered with no exchange to abandon. -/
theorem reservedFieldFaults : Obligations.ReservedFieldFaults := by
  unfold Obligations.ReservedFieldFaults
  intro w o s hr hop reserved
  exact takeCommand_undecoded hr (decode_of_reserved_ne_zero hop reserved)

end Sys2Proof.Machine
end

section
/-! STUFF, UNSTUFF_RESET and UNSTUFF (rules R170 to R177): their answers, and their whole effects in a CORE that accepts
commands. -/

namespace Sys2Proof.Machine

/-- STUFF's answer, in both cases of rule R170. -/
theorem rspStuff_stuff (c : Config) (b : Byte) :
    rspStuff (stuff c b) =
      if b = c.stx ∨ b = c.esc then 0x02#8 ++ 0x00#8 ++ c.esc ++ (b ||| 0x80) else 0x01#8 ++ 0x00#8 ++ b ++ 0x00#8 := by
  split
  · next marker => rw [stuff_marker marker]; rfl
  · next plain => rw [stuff_plain plain]; rfl

/-- Settles O24: STUFF's own effect is its answer. -/
theorem stuffEffect : Obligations.StuffEffect := by
  unfold Obligations.StuffEffect
  refine fun b => ⟨rfl, fun s hr => ?_⟩
  rw [exec_ready hr, ← rspStuff_stuff]
  rfl

theorem rspEvent_data (b : Byte) : rspEvent (.data b) = 0x000000#24 ++ b :=
  congrArg (· ++ b) (by decide : 0#16 ++ 0#8 = 0x000000#24)

theorem rspEvent_badEscape (w : Byte) : rspEvent (.badEscape w) = 0x000003#24 ++ w :=
  congrArg (· ++ w) (by decide : 0#16 ++ 3#8 = 0x000003#24)

section
variable {c : Config} {w : Byte}

theorem unstuffStep_stx (p : Bool) (isStx : w = c.stx) : unstuffStep c p w = (false, .start p) := by
  cases p <;> exact if_pos isStx

theorem unstuffStep_esc (notStx : w ≠ c.stx) (isEsc : w = c.esc) : unstuffStep c false w = (true, .pending) :=
  (if_neg notStx).trans (if_pos isEsc)

theorem unstuffStep_plain (notStx : w ≠ c.stx) (notEsc : w ≠ c.esc) : unstuffStep c false w = (false, .data w) :=
  (if_neg notStx).trans (if_neg notEsc)

theorem unstuffStep_escapedEsc (notStx : w ≠ c.stx) (isEsc : w = c.esc ||| 0x80) :
    unstuffStep c true w = (false, .data c.esc) :=
  (if_neg notStx).trans (if_pos isEsc)

theorem unstuffStep_escapedStx (notStx : w ≠ c.stx) (notEsc : w ≠ c.esc ||| 0x80) (isStx : w = c.stx ||| 0x80) :
    unstuffStep c true w = (false, .data c.stx) :=
  ((if_neg notStx).trans (if_neg notEsc)).trans (if_pos isStx)

theorem unstuffStep_badEscape (notStart : w ≠ c.stx) (notEsc : w ≠ c.esc ||| 0x80) (notStx : w ≠ c.stx ||| 0x80) :
    unstuffStep c true w = (false, .badEscape w) :=
  ((if_neg notStart).trans (if_neg notEsc)).trans (if_neg notStx)

end

/-- UNSTUFF's whole effect in a CORE that accepts commands, from what the step of rule R176 gives. -/
theorem exec_unstuff_ready {s : State} {w : Byte} {q p : Bool} {ev : UnstuffEvent} {answer : Word} (hr : Ready s)
    (pending : s.escp = q) (step : unstuffStep s.cfg q w = (p, ev)) (word : rspEvent ev = answer) :
    exec (.unstuff w) s = .next { s with escp := p, outputs := s.outputs ++ [.rsp answer] } := by
  subst pending word
  rw [exec_ready hr, ownEffect, step]
  rfl

/-- Settles O27: UNSTUFF's effect in each of rule R176's seven cases, by whether an escape is pending and then by the
wire byte, in the rule's order. -/
theorem unstuffEffects : Obligations.UnstuffEffects := by
  unfold Obligations.UnstuffEffects
  refine ⟨rfl, fun _ => rfl, fun s w hr => ⟨exec_ready hr .unstuffReset, ?_⟩⟩
  cases pending : s.escp with
  | false =>
    rw [if_pos rfl]
    split
    · next isStx => exact exec_unstuff_ready hr pending (unstuffStep_stx false isStx) rfl
    · next notStx =>
      split
      · next isEsc => exact exec_unstuff_ready hr pending (unstuffStep_esc notStx isEsc) rfl
      · next notEsc => exact exec_unstuff_ready hr pending (unstuffStep_plain notStx notEsc) (rspEvent_data w)
  | true =>
    rw [if_neg (by decide)]
    split
    · next isStx => exact exec_unstuff_ready hr pending (unstuffStep_stx true isStx) rfl
    · next notStart =>
      split
      · next isEsc =>
        exact exec_unstuff_ready hr pending (unstuffStep_escapedEsc notStart isEsc) (rspEvent_data s.cfg.esc)
      · next notEsc =>
        split
        · next isStx =>
          exact exec_unstuff_ready hr pending (unstuffStep_escapedStx notStart notEsc isStx) (rspEvent_data s.cfg.stx)
        · next notStx =>
          exact exec_unstuff_ready hr pending (unstuffStep_badEscape notStart notEsc notStx) (rspEvent_badEscape w)

end Sys2Proof.Machine
end

section
/-! CRC_INIT, CRC_UPDATE and CRC_READ (rules R152 to R154): their whole effects in a CORE that accepts commands. Each is
the command's own effect behind `exec_ready`; a checksum is answered zero-extended, which `rspCrc_eq` says as a
concatenation. -/

namespace Sys2Proof.Machine

theorem exec_crcInit_ready {s : State} (hr : Ready s) :
    exec .crcInit s = .next { s with crc := 0xFFFF, outputs := s.outputs ++ [.rsp 0x00000000] } :=
  exec_ready hr .crcInit

theorem exec_crcRead_ready {s : State} (hr : Ready s) :
    exec .crcRead s = .next { s with outputs := s.outputs ++ [.rsp (0#16 ++ s.crc)] } := by
  rw [exec_ready hr, ← rspCrc_eq]
  rfl

theorem exec_crcUpdate_ready {s : State} (hr : Ready s) (b : Byte) :
    exec (.crcUpdate b) s = .next
      { s with crc := crcUpdate s.crc b, outputs := s.outputs ++ [.rsp (0#16 ++ crcUpdate s.crc b)] } := by
  rw [exec_ready hr, ← rspCrc_eq]
  rfl

/-- Settles O19: the words are `encode`'s rows, and each command's effect is its own. -/
theorem crcInitAndReadEffects : Obligations.CrcInitAndReadEffects := by
  unfold Obligations.CrcInitAndReadEffects
  exact ⟨rfl, rfl, fun _ hr => ⟨exec_crcInit_ready hr, exec_crcRead_ready hr⟩⟩

/-- Settles O20: the answer is taken from the new checksum. -/
theorem crcUpdateEffect : Obligations.CrcUpdateEffect := by
  unfold Obligations.CrcUpdateEffect
  exact fun b => ⟨rfl, fun _ hr => exec_crcUpdate_ready hr b⟩

end Sys2Proof.Machine
end

section
/-! The buffer and acceptance statements of the frame encoder (rules R201, R207 to R209): the whole effects of PLOAD and
of SEND's acceptance step in a CORE that accepts commands. -/

namespace Sys2Proof.Machine

theorem exec_pload_inRange {s : State} {idx : Byte} (v : Byte) (hr : Ready s) (inRange : idx.toNat < 254) :
    exec (.pload idx v) s = .next
      { s with pbuf := s.pbuf.write idx.toNat v, outputs := s.outputs ++ [.rsp 0x00000000] } := by
  rw [exec_ready hr, ownEffect, loadParam, if_pos inRange]
  rfl

theorem exec_pload_outOfRange {s : State} {idx : Byte} (v : Byte) (hr : Ready s) (outOfRange : 254 ≤ idx.toNat) :
    exec (.pload idx v) s = .next
      { s with fault := some .indexRange, outputs := s.outputs ++ [.rsp 0xFFFFFFFF] } := by
  rw [exec_ready hr, ownEffect, loadParam, if_neg (Nat.not_lt.mpr outOfRange), raiseFault_of_idle hr.idle]

/-- Settles O30: the two cases of rule R201; what the write does to each index is the law of `Memory.write`. -/
theorem ploadEffect : Obligations.PloadEffect := by
  unfold Obligations.PloadEffect
  refine ⟨fun _ _ => rfl, fun s idx v hr => ⟨fun inRange => ?_, exec_pload_outOfRange v hr⟩⟩
  have written := Memory.read_write_same s.pbuf idx.toNat v
  have others : ∀ j ≠ idx.toNat, (s.pbuf.write idx.toNat v).read j = s.pbuf.read j :=
    fun j hj => Memory.read_write_other s.pbuf v hj
  exact ⟨_, exec_pload_inRange v hr inRange, written, congrArg Option.isSome written,
    fun j hj => ⟨others j hj, congrArg Option.isSome (others j hj)⟩, rfl⟩

/-- The parameters a SEND reads fall short of its count exactly when one of them is unwritten (rules R39, R208). -/
theorem sendParams_length_lt {s : State} {n : Byte} :
    (sendParams s n).length < n.toNat ↔ ∃ j < n.toNat, pvalid s j = false := by
  simp [sendParams, Memory.run_length_lt, pvalid]

theorem sendParams_eq {s : State} {n : Byte} {ps : List Byte} (count : ps.length = n.toNat)
    (held : ∀ j < n.toNat, s.pbuf.read j = ps[j]?) : sendParams s n = ps :=
  Memory.run_eq count (by simpa using held)

/-- SEND with every parameter written starts the sequencer (rule R209). -/
theorem beginSend_written {s : State} {n : Byte} {ps : List Byte} (cmd : Byte) (bound : n.toNat ≤ 254)
    (count : ps.length = n.toNat) (held : ∀ j < n.toNat, s.pbuf.read j = ps[j]?) :
    beginSend cmd n s =
      { s with
        crc := 0xFFFF
        seq := .tx (frameBody cmd ps) 0 [s.cfg.stx]
        outputs := s.outputs ++ [.txWrite s.cfg.stx] } := by
  have params := sendParams_eq count held
  obtain ⟨full, _⟩ | ⟨_, unwritten, _⟩ | ⟨_, _, started⟩ := beginSend_cases cmd n s
  · omega
  · have short := sendParams_length_lt.mpr unwritten
    rw [params] at short
    omega
  · rw [started, params]

theorem beginSend_unwritten {s : State} {n : Byte} (cmd : Byte) (bound : n.toNat ≤ 254)
    (unwritten : ∃ j < n.toNat, pvalid s j = false) : beginSend cmd n s = raiseFault .unwrittenParam s := by
  have short := sendParams_length_lt.mpr unwritten
  rw [beginSend, if_neg (by omega), if_pos short]

theorem beginSend_full {s : State} {n : Byte} (cmd : Byte) (full : 255 ≤ n.toNat) :
    beginSend cmd n s = completeSend .paramInvalid s := if_pos full

/-- With no exchange to end, completing a SEND writes the result and the answer, and nothing else. -/
theorem completeSend_of_idle {s : State} (h : s.seq = .idle) (r : ResultCode) :
    completeSend r s = { s with result := r, outputs := s.outputs ++ [.rsp (rspSend r)] } := by
  simp [completeSend, respond, emit, h]

/-- The captured body by SEND's own operands (rule R209). -/
theorem frameBody_of_count {n : Byte} {ps : List Byte} (cmd : Byte) (count : ps.length = n.toNat) :
    frameBody cmd ps = [0x00, 1 + n, cmd] ++ ps := by
  have lenLo : BitVec.ofNat 8 (1 + ps.length) = 1 + n := by rw [count, BitVec.ofNat_add, BitVec.ofNat_toNat]; simp
  rw [frameBody, lenLo]
  rfl

/-- Settles O31: SEND's own effect is `beginSend`, whose three outcomes are the three clauses. -/
theorem sendAcceptance : Obligations.SendAcceptance := by
  unfold Obligations.SendAcceptance
  intro s cmd n hr
  rw [exec_ready hr, ownEffect]
  refine ⟨fun full => ?_, fun bound unwritten => ?_, fun bound ps count held => ?_⟩
  · rw [beginSend_full cmd full, completeSend_of_idle hr.idle]
    rfl
  · rw [beginSend_unwritten cmd bound unwritten, raiseFault_of_idle hr.idle]
  · rw [beginSend_written cmd bound count held, frameBody_of_count cmd count]

end Sys2Proof.Machine
end

section
/-! One transport answer in mode `TX` (rules R212 to R215): what starting each kind of item does, and what `TxAck` does
with it. -/

namespace Sys2Proof.Machine

theorem step_txAck_true {s : State} {rest : List Input} {body : List Byte} {k : Nat} {pend : List Byte}
    (hw : s.cfg.wf = true) (hin : s.inputs = .txAck true :: rest) (hq : s.seq = .tx body k pend) :
    step s = .next (txAccepted body k pend { s with inputs := rest }) := by
  rw [step_cons hw hin]
  simp [takeInput, takeTxAck, hq]

theorem step_txAck_false {s : State} {rest : List Input} {body : List Byte} {k : Nat} {pend : List Byte}
    (hw : s.cfg.wf = true) (hin : s.inputs = .txAck false :: rest) (hq : s.seq = .tx body k pend) :
    step s = .next (completeSend .writeError { s with inputs := rest }) := by
  rw [step_cons hw hin]
  simp [takeInput, takeTxAck, hq]

/-- Settles O33: a failed write completes the SEND, whatever is pending. -/
theorem failedWriteEndsSend : Obligations.FailedWriteEndsSend := by
  unfold Obligations.FailedWriteEndsSend
  intro s rest body k pend hw hin hq
  exact step_txAck_false hw hin hq

theorem txAccepted_pair (body : List Byte) (k : Nat) (w w' : Byte) (more : List Byte) (s : State) :
    txAccepted body k (w :: w' :: more) s = offerItem body k (w' :: more) { s with wire := s.wire ++ [w] } := rfl

theorem txAccepted_last {body : List Byte} {k : Nat} (w : Byte) (s : State) (last : k = body.length + 2) :
    txAccepted body k [w] s = completeSend .ok { s with wire := s.wire ++ [w] } := if_pos last

theorem txAccepted_item {body : List Byte} {k : Nat} (w : Byte) (s : State) (notLast : k ≠ body.length + 2) :
    txAccepted body k [w] s = startItem body (k + 1) { s with wire := s.wire ++ [w] } := if_neg notLast

/-- The transmit-logical-byte primitive (rule R212), field by field. -/
theorem transmitByte_eq (body : List Byte) (k : Nat) (x : Byte) (fold : Bool) (s : State) :
    transmitByte body k x fold s =
      { s with
        crc := if fold then crcUpdate s.crc x else s.crc
        seq := .tx body k (stuff s.cfg x)
        outputs := s.outputs ++ [.txWrite (if x = s.cfg.stx ∨ x = s.cfg.esc then s.cfg.esc else x)] } := by
  cases fold <;> simp [transmitByte, foldByte, offerItem, stuff_take_one]

theorem startItem_body {body : List Byte} {k : Nat} {x : Byte} (s : State) (hx : body[k]? = some x) :
    startItem body (k + 1) s = transmitByte body (k + 1) x true s := by
  simp only [startItem, hx]

theorem startItem_crcHi (body : List Byte) (s : State) :
    startItem body (body.length + 1) s = transmitByte body (body.length + 1) (crcHi s.crc) false s := by
  simp [startItem]

theorem startItem_crcLo (body : List Byte) (s : State) :
    startItem body (body.length + 2) s = transmitByte body (body.length + 2) (crcLo s.crc) false s := by
  simp [startItem]

/-- Settles O32: the acknowledged byte is the first of a pair, or the frame's last, or an item's last; the item started
after it is a body byte, folded, or a checksum byte, unfolded. -/
theorem acknowledgedWriteAdvances : Obligations.AcknowledgedWriteAdvances := by
  unfold Obligations.AcknowledgedWriteAdvances
  intro s rest body k w more hw hin hq
  rw [step_txAck_true hw hin hq]
  refine ⟨?pair, ?last, ?bodyByte, ?crcByte⟩
  case pair =>
    rintro w' more' rfl
    rfl
  case last =>
    rintro rfl last
    rw [txAccepted_last w _ last]
    rfl
  case bodyByte =>
    rintro rfl x hx
    have inBody : k < body.length := (List.getElem?_eq_some_iff.mp hx).1
    rw [txAccepted_item w _ (by omega), startItem_body _ hx, transmitByte_eq]
    rfl
  case crcByte =>
    rintro rfl x (⟨rfl, rfl⟩ | ⟨rfl, rfl⟩)
    · rw [txAccepted_item w _ (by omega), startItem_crcHi, transmitByte_eq]
      rfl
    · rw [txAccepted_item w _ (by omega), startItem_crcLo, transmitByte_eq]
      rfl

end Sys2Proof.Machine
end

section
/-! The frame as a byte sequence (rules R210, R218 to R220): after the raw `STX` it is one stuffed sequence, so it holds no
other `STX`, and unstuffing gives the sequence back. -/

namespace Sys2Proof.Machine

/-- Unstuffing the wire bytes of one logical byte, with no escape pending before it, recovers it and leaves none pending. -/
theorem unstuffFrom_stuff_append {c : Config} (hw : c.wf = true) (b : Byte) (i : Nat) (acc ws : List Byte) :
    unstuffFrom c false i acc (stuff c b ++ ws) = unstuffFrom c false (i + (stuff c b).length) (acc ++ [b]) ws := by
  obtain ⟨stx_esc, stxEscaped_stx, -, escEscaped_stx, -, escaped_escaped⟩ := markers_distinct hw
  by_cases marker : b = c.stx ∨ b = c.esc
  · have pending : unstuffStep c false c.esc = (true, .pending) := unstuffStep_esc stx_esc.symm rfl
    have recovered : unstuffStep c true (b ||| 0x80) = (false, .data b) := by
      obtain rfl | rfl := marker
      · exact unstuffStep_escapedStx stxEscaped_stx escaped_escaped rfl
      · exact unstuffStep_escapedEsc escEscaped_stx rfl
    simp only [stuff_marker marker, List.cons_append, List.nil_append, unstuffFrom, pending, recovered]
    rfl
  · obtain ⟨notStx, notEsc⟩ := not_or.mp marker
    simp only [stuff_plain marker, List.cons_append, List.nil_append, unstuffFrom, unstuffStep_plain notStx notEsc]
    rfl

theorem unstuffFrom_stuffSeq {c : Config} (hw : c.wf = true) (bs : List Byte) (i : Nat) (acc : List Byte) :
    unstuffFrom c false i acc (stuffSeq c bs) = .ok (acc ++ bs) := by
  induction bs generalizing i acc with
  | nil => simp [unstuffFrom]
  | cons b bs ih => rw [stuffSeq_cons, unstuffFrom_stuff_append hw, ih, List.append_assoc, List.singleton_append]

theorem unstuffSeq_stuffSeq {c : Config} (hw : c.wf = true) (bs : List Byte) :
    unstuffSeq c (stuffSeq c bs) = .ok bs := unstuffFrom_stuffSeq hw bs 0 []

theorem stx_not_mem_stuff {c : Config} (hw : c.wf = true) (b : Byte) : c.stx ∉ stuff c b := by
  obtain ⟨stx_esc, stxEscaped_stx, -, escEscaped_stx, -⟩ := markers_distinct hw
  by_cases marker : b = c.stx ∨ b = c.esc
  · have escaped : b ||| 0x80#8 ≠ c.stx := by
      obtain rfl | rfl := marker
      · exact stxEscaped_stx
      · exact escEscaped_stx
    simp [stuff_marker marker, stx_esc, escaped.symm]
  · rw [stuff_plain marker, List.mem_singleton]
    exact fun isStx => marker (.inl isStx.symm)

theorem stx_not_mem_stuffSeq {c : Config} (hw : c.wf = true) (bs : List Byte) : c.stx ∉ stuffSeq c bs := by
  intro hmem
  obtain ⟨b, -, hb⟩ := List.mem_flatMap.mp hmem
  exact stx_not_mem_stuff hw b hb

/-- A frame is `STX` and one stuffed sequence: the body, then the checksum, high byte first. -/
theorem frameWire_eq_stx_cons (c : Config) (cmd : Byte) (ps : List Byte) :
    frameWire c cmd ps = c.stx ::
      stuffSeq c (frameBody cmd ps ++ [crcHi (crc16 (frameBody cmd ps)), crcLo (crc16 (frameBody cmd ps))]) := by
  simp [frameWire, stuffSeq_append]

/-- Settles O38: both properties are those of the stuffed sequence after `STX`. -/
theorem frameShape : Obligations.FrameShape := by
  unfold Obligations.FrameShape
  intro c cmd ps hw _
  exact ⟨_, frameWire_eq_stx_cons c cmd ps, stx_not_mem_stuffSeq hw _, unstuffSeq_stuffSeq hw _⟩

end Sys2Proof.Machine
end

section
/-! A whole SEND (rule R210): the run from item 0 to completion when every write is acknowledged. `sendingAt` is the state
of the SEND after `r` wire bytes of item `k`; each acknowledgement leads from one such state to the next. -/

namespace Sys2Proof.Machine

/-- The wire bytes of the items before item `k`. -/
def itemsWire (c : Config) (body : List Byte) (k : Nat) : List Byte := ((List.range k).map (itemWire c body)).flatten

theorem itemsWire_succ (c : Config) (body : List Byte) (k : Nat) :
    itemsWire c body (k + 1) = itemsWire c body k ++ itemWire c body k := by
  simp [itemsWire, List.range_succ]

theorem itemWire_body (c : Config) {body : List Byte} {j : Nat} {x : Byte} (hx : body[j]? = some x) :
    itemWire c body (j + 1) = stuff c x := by
  simp only [itemWire, hx]

theorem itemWire_crcHi (c : Config) (body : List Byte) :
    itemWire c body (body.length + 1) = stuff c (crcHi (crc16 body)) := by
  simp [itemWire]

theorem itemWire_crcLo (c : Config) (body : List Byte) :
    itemWire c body (body.length + 2) = stuff c (crcLo (crc16 body)) := by
  simp [itemWire]

theorem itemsWire_body (c : Config) {body : List Byte} {j : Nat} (hj : j ≤ body.length) :
    itemsWire c body (j + 1) = c.stx :: stuffSeq c (body.take j) := by
  induction j with
  | zero => rfl
  | succ j ih =>
    have hx : body[j]? = some body[j] := List.getElem?_eq_getElem hj
    rw [itemsWire_succ, ih (by omega), itemWire_body c hx, List.take_add_one, hx, stuffSeq_append]
    simp

/-- The frame is the wire bytes of its items, 0 to `n + 5`, in order (rules R45, R210). -/
theorem frameWire_eq_itemsWire (c : Config) (cmd : Byte) (ps : List Byte) :
    frameWire c cmd ps = itemsWire c (frameBody cmd ps) ((frameBody cmd ps).length + 3) := by
  rw [itemsWire_succ, itemsWire_succ, itemsWire_body c le_rfl, List.take_length, itemWire_crcHi, itemWire_crcLo]
  rfl

/-- Every item has a last wire byte. -/
theorem exists_last_byte (c : Config) (body : List Byte) (k : Nat) : ∃ r, r + 1 = (itemWire c body k).length := by
  obtain ⟨r, hr⟩ := Nat.exists_eq_add_one.mpr (List.length_pos_iff.mpr (itemWire_ne_nil c body k))
  exact ⟨r, hr.symm⟩

/-- The wire bytes of a frame before byte `r` of item `k`. -/
def sentWire (c : Config) (body : List Byte) (k r : Nat) : List Byte :=
  itemsWire c body k ++ (itemWire c body k).take r

theorem sentWire_zero (c : Config) (body : List Byte) (k : Nat) : sentWire c body k 0 = itemsWire c body k := by
  simp [sentWire]

theorem sentWire_succ {c : Config} {body : List Byte} {k r : Nat} (hr : r < (itemWire c body k).length) :
    sentWire c body k (r + 1) = sentWire c body k r ++ [(itemWire c body k)[r]] := by
  simp [sentWire]

/-- Once the last byte of an item is sent, the item is. -/
theorem sentWire_item {c : Config} {body : List Byte} {k r : Nat} (lastByte : r + 1 = (itemWire c body k).length) :
    sentWire c body k (r + 1) = itemsWire c body (k + 1) := by
  simp [sentWire, itemsWire_succ, lastByte]

/-- The state of a SEND of `body` begun in `s`, with the first `r` wire bytes of item `k` acknowledged and the next one
offered (rules R45, R211, R213); `is` is what comes in next. -/
def sendingAt (s : State) (body : List Byte) (k r : Nat) (is : List Input) : State :=
  { s with
    crc := crc16 (body.take k)
    seq := .tx body k ((itemWire s.cfg body k).drop r)
    inputs := is
    outputs := s.outputs ++ (sentWire s.cfg body k (r + 1)).map .txWrite
    wire := s.wire ++ sentWire s.cfg body k r }

/-- The state in which a SEND of `body` begun in `s` ends when every write is acknowledged (rules R214, R216). -/
def sendDone (s : State) (body : List Byte) (is : List Input) : State :=
  { s with
    crc := crc16 body
    seq := .idle
    result := .ok
    inputs := is
    outputs := s.outputs ++ (itemsWire s.cfg body (body.length + 3)).map .txWrite ++ [.rsp 0x00000001]
    wire := s.wire ++ itemsWire s.cfg body (body.length + 3) }

section
variable {s : State} {body : List Byte} {k r : Nat}

theorem step_sendingAt (hw : s.cfg.wf = true) (hr : r < (itemWire s.cfg body k).length) (is : List Input) :
    step (sendingAt s body k r (.txAck true :: is)) =
      .next (txAccepted body k ((itemWire s.cfg body k)[r] :: (itemWire s.cfg body k).drop (r + 1))
        (sendingAt s body k r is)) := by
  rw [← List.drop_eq_getElem_cons hr]
  exact step_txAck_true (s := sendingAt s body k r (.txAck true :: is)) hw rfl rfl

/-- An acknowledged byte that is not its item's last. -/
theorem step_sendingAt_within (hw : s.cfg.wf = true) (hr : r + 1 < (itemWire s.cfg body k).length) (is : List Input) :
    step (sendingAt s body k r (.txAck true :: is)) = .next (sendingAt s body k (r + 1) is) := by
  rw [step_sendingAt hw (by omega), List.drop_eq_getElem_cons hr, txAccepted_pair]
  simp [sendingAt, offerItem, sentWire_succ hr, sentWire_succ (Nat.lt_of_succ_lt hr), List.drop_eq_getElem_cons hr,
    -List.getElem_cons_drop]

/-- An item's last byte acknowledged, with items left. -/
theorem step_sendingAt_item (hw : s.cfg.wf = true) (hr : r + 1 = (itemWire s.cfg body k).length)
    (notLast : k ≠ body.length + 2) (is : List Input) :
    step (sendingAt s body k r (.txAck true :: is)) = .next (sendingAt s body (k + 1) 0 is) := by
  have sent := (sentWire_succ (by omega)).symm.trans (sentWire_item hr)
  rw [step_sendingAt hw (by omega), hr, List.drop_length, txAccepted_item _ _ notLast, startItem_of_crc rfl]
  have offered : sentWire s.cfg body (k + 1) 1 =
      itemsWire s.cfg body (k + 1) ++ (itemWire s.cfg body (k + 1)).take 1 := rfl
  simp [sendingAt, sentWire_item hr, sentWire_zero, sent, offered]

/-- The frame's last byte acknowledged. -/
theorem step_sendingAt_last (hw : s.cfg.wf = true) (hr : r + 1 = (itemWire s.cfg body (body.length + 2)).length)
    (is : List Input) :
    step (sendingAt s body (body.length + 2) r (.txAck true :: is)) = .next (sendDone s body is) := by
  have sent := (sentWire_succ (by omega)).symm.trans (sentWire_item hr)
  have covered : body.take (body.length + 2) = body := List.take_of_length_le (by omega)
  rw [step_sendingAt hw (by omega), hr, List.drop_length, txAccepted_last _ _ rfl]
  simp [sendingAt, sendDone, completeSend, respond, emit, rspSend, resultBits, sentWire_item hr, sent, covered]

end

/-- From the states `f`, `n` acknowledgements lead to the states `g`, whatever comes in after them. -/
def AckRun (n : Nat) (f g : List Input → State) : Prop :=
  ∀ is, run n (f (List.replicate n (.txAck true) ++ is)) = .next (g is)

theorem AckRun.snoc {n : Nat} {f g h : List Input → State} (start : AckRun n f g)
    (one : ∀ is, step (g (.txAck true :: is)) = .next (h is)) : AckRun (n + 1) f h := by
  intro is
  rw [List.replicate_succ', List.append_assoc, List.singleton_append, run_add (start _), run_one (one is)]

section
variable {s : State} {body : List Byte} {k r : Nat}

theorem ackRun_within (hw : s.cfg.wf = true)
    (start : AckRun (sentWire s.cfg body k 0).length (sendingAt s body 0 0) (sendingAt s body k 0))
    (hr : r < (itemWire s.cfg body k).length) :
    AckRun (sentWire s.cfg body k r).length (sendingAt s body 0 0) (sendingAt s body k r) := by
  induction r with
  | zero => exact start
  | succ r ih =>
    rw [sentWire_succ (by omega), List.length_append]
    exact (ih (by omega)).snoc (step_sendingAt_within hw hr)

theorem ackRun_items (hw : s.cfg.wf = true) (hk : k ≤ body.length + 2) :
    AckRun (sentWire s.cfg body k 0).length (sendingAt s body 0 0) (sendingAt s body k 0) := by
  induction k with
  | zero => exact fun _ => rfl
  | succ k ih =>
    obtain ⟨r, hr⟩ := exists_last_byte s.cfg body k
    rw [sentWire_zero, ← sentWire_item hr, sentWire_succ (by omega), List.length_append]
    exact (ackRun_within hw (ih (by omega)) (by omega)).snoc (step_sendingAt_item hw hr (by omega))

/-- As many acknowledgements as the frame has wire bytes before byte `r` of item `k` bring a SEND there. -/
theorem ackRun_sendingAt (hw : s.cfg.wf = true) (hk : k ≤ body.length + 2) (hr : r < (itemWire s.cfg body k).length) :
    AckRun (sentWire s.cfg body k r).length (sendingAt s body 0 0) (sendingAt s body k r) :=
  ackRun_within hw (ackRun_items hw hk) hr

/-- As many acknowledgements as the frame has wire bytes complete a SEND. -/
theorem ackRun_sendDone (hw : s.cfg.wf = true) :
    AckRun (itemsWire s.cfg body (body.length + 3)).length (sendingAt s body 0 0) (sendDone s body) := by
  obtain ⟨r, hr⟩ := exists_last_byte s.cfg body (body.length + 2)
  rw [← sentWire_item hr, sentWire_succ (by omega), List.length_append]
  exact (ackRun_sendingAt hw le_rfl (by omega)).snoc (step_sendingAt_last hw hr)

end

theorem decode_encode_send (cmd n : Byte) : decode (encode (.send cmd n)) = .ok (.send cmd n) := by
  obtain ⟨op, reserved⟩ := Laws.FieldsPlaced.send cmd n
  exact decode_eq_ok.mpr ⟨.send, op, reserved, by simp [encode, buildInstr]⟩

/-- The step that accepts a SEND of the written parameters `ps`. -/
theorem step_send {s : State} {cmd : Byte} {ps : List Byte} {rest : List Input} (hr : Ready s) (hw : s.cfg.wf = true)
    (bound : ps.length ≤ 254) (held : ∀ j < ps.length, s.pbuf.read j = ps[j]?)
    (hin : s.inputs = .command (encode (.send cmd (BitVec.ofNat 8 ps.length))) :: rest) :
    step s = .next (sendingAt s (frameBody cmd ps) 0 0 rest) := by
  have count : (BitVec.ofNat 8 ps.length).toNat = ps.length := by
    rw [BitVec.toNat_ofNat]
    omega
  rw [step_command_ready hw hr hin (decode_encode_send _ _), ownEffect,
    beginSend_written cmd (by omega) count.symm (by simpa [count] using held)]
  simp [sendingAt, sentWire, itemsWire, itemWire]

/-- Settles O34: the acceptance step, then one acknowledgement for each wire byte of the frame. -/
theorem sendPutsFrameOnWire : Obligations.SendPutsFrameOnWire := by
  unfold Obligations.SendPutsFrameOnWire
  intro s cmd ps rest hr hw bound held hin
  rw [Nat.add_comm, run_succ (step_send hr hw bound held hin), frameWire_eq_itemsWire, ackRun_sendDone hw rest,
    sendDone, hr.idle]
  rfl

end Sys2Proof.Machine
end

section
/-! RREAD (rule R247): its whole effect in a CORE that accepts commands, one lemma per outcome, in the rule's order. -/

namespace Sys2Proof.Machine

section
variable {s : State} {idx : Byte}

theorem exec_rread_unreadable (idx : Byte) (hr : Ready s) (unreadable : s.rvalid = false) :
    exec (.rread idx) s = .next
      { s with fault := some .noResponse, outputs := s.outputs ++ [.rsp 0xFFFFFFFF] } := by
  rw [exec_ready hr, ← raiseFault_of_idle hr.idle]
  simp [ownEffect, readResponse, unreadable]

theorem exec_rread_outOfRange (hr : Ready s) (readable : s.rvalid = true) (outOfRange : s.rlen.toNat ≤ idx.toNat) :
    exec (.rread idx) s = .next
      { s with fault := some .indexRange, outputs := s.outputs ++ [.rsp 0xFFFFFFFF] } := by
  rw [exec_ready hr, ← raiseFault_of_idle hr.idle]
  simp [ownEffect, readResponse, readable, outOfRange]

theorem exec_rread_held {b : Byte} (hr : Ready s) (readable : s.rvalid = true) (inRange : idx.toNat < s.rlen.toNat)
    (held : s.rbuf.read idx.toNat = some b) :
    exec (.rread idx) s = .next { s with outputs := s.outputs ++ [.rsp (0#24 ++ b)] } := by
  rw [exec_ready hr, ← rspByte_eq]
  simp [ownEffect, readResponse, readable, inRange, held, respond, emit]

end

/-- Settles O47: the word is `encode`'s row, and the three clauses are the outcomes of rule R247 in its order. -/
theorem rreadEffect : Obligations.RreadEffect := by
  unfold Obligations.RreadEffect
  exact ⟨fun _ => rfl, fun s idx hr => ⟨exec_rread_unreadable idx hr, exec_rread_outOfRange hr,
    fun readable inRange _ held => exec_rread_held hr readable inRange held⟩⟩

end Sys2Proof.Machine
end

section
/-! A whole RECV (rules R241 to R248): the run from its acceptance to its end. `receivingAt` is the state of the RECV
once the bytes `bs` have come; each byte leads from one such state to the next, and the last byte, or the timeout,
completes it. -/

namespace Sys2Proof.Machine

/-- `m` with the bytes `bs` written from index 0 on, in order (rules R72, R244). -/
def Memory.writeFront (m : Memory) (bs : List Byte) : Memory := bs.zipIdx.foldl (fun m p => m.write p.2 p.1) m

@[simp] theorem Memory.writeFront_nil (m : Memory) : m.writeFront [] = m := rfl

theorem Memory.writeFront_append_singleton (m : Memory) (bs : List Byte) (b : Byte) :
    m.writeFront (bs ++ [b]) = (m.writeFront bs).write bs.length b := by
  simp [Memory.writeFront, List.zipIdx_append]

/-- The bytes written show at their indices, and the old contents everywhere else. -/
theorem Memory.read_writeFront (m : Memory) (bs : List Byte) (j : Nat) :
    (m.writeFront bs).read j = bs[j]?.or (m.read j) := by
  induction bs using List.reverseRecOn with
  | nil => rfl
  | append_singleton bs b ih =>
    rw [Memory.writeFront_append_singleton, Memory.read_write]
    by_cases last : j = bs.length
    · simp [last]
    · rw [if_neg last, ih, List.getElem?_append]
      split
      · rfl
      · rw [List.getElem?_eq_none (by omega), List.getElem?_eq_none (by simp; omega)]

theorem Memory.read_writeFront_of_lt (m : Memory) {bs : List Byte} {j : Nat} (h : j < bs.length) :
    (m.writeFront bs).read j = bs[j]? := by
  rw [Memory.read_writeFront, List.getElem?_eq_getElem h, Option.some_or]

theorem Memory.read_writeFront_of_ge (m : Memory) {bs : List Byte} {j : Nat} (h : bs.length ≤ j) :
    (m.writeFront bs).read j = m.read j := by
  rw [Memory.read_writeFront, List.getElem?_eq_none h, Option.none_or]

theorem Memory.run_writeFront (m : Memory) (bs : List Byte) : (m.writeFront bs).run 0 bs.length = bs :=
  Memory.run_eq rfl fun j hj => by rw [Nat.zero_add, Memory.read_writeFront_of_lt m hj]

/-- A response that is all there is judged by its length and its byte 3 alone (rules R241, R249). -/
theorem classify_full {c : Config} {len : Byte} {r : List Byte} (full : r.length = len.toNat) :
    classify c len r = if 4 ≤ r.length ∧ r[3]? = some c.nak then .deviceRejected else .ok := by
  rw [classify, if_neg (by omega), full]

/-- The state of a RECV of `len` bytes begun in `s`, once the bytes `bs` have come (rules R242, R244); `is` is what
comes in next. -/
def receivingAt (s : State) (len : Byte) (bs : List Byte) (is : List Input) : State :=
  { s with
    rvalid := false
    rbuf := s.rbuf.writeFront bs
    rxcount := BitVec.ofNat 8 bs.length
    seq := .rx len
    inputs := is
    outputs := s.outputs ++ [.rxRequest len s.timeout] }

theorem decode_encode_recv (len : Byte) : decode (encode (.recv len)) = .ok (.recv len) := by
  obtain ⟨op, reserved⟩ := Laws.FieldsPlaced.recv len
  exact decode_eq_ok.mpr ⟨.recv, op, reserved, by simp [encode, buildInstr]⟩

section
variable {s : State} {len : Byte} {bs : List Byte}

/-- The step that accepts a RECV of at least one byte. -/
theorem step_recv {is : List Input} (hr : Ready s) (hw : s.cfg.wf = true) (nonempty : len ≠ 0)
    (hin : s.inputs = .command (encode (.recv len)) :: is) : step s = .next (receivingAt s len [] is) := by
  rw [step_command_ready hw hr hin (decode_encode_recv len), ownEffect, beginRecv, if_neg nonempty]
  rfl

/-- A count of received bytes fits in `RXCOUNT` (rules R42, R43). -/
theorem toNat_count (fits : bs.length ≤ len.toNat) : (BitVec.ofNat 8 bs.length).toNat = bs.length := by
  rw [BitVec.toNat_ofNat]
  omega

/-- A response all there fills `RXCOUNT` up to `len`. -/
theorem count_full (full : bs.length = len.toNat) : BitVec.ofNat 8 bs.length = len := by
  rw [full, BitVec.ofNat_toNat, BitVec.setWidth_eq]

theorem rxcount_receivingAt_lt (wanted : bs.length < len.toNat) (is : List Input) :
    (receivingAt s len bs is).rxcount.toNat < len.toNat := by
  rwa [receivingAt, toNat_count wanted.le]

theorem storeByte_receivingAt (wanted : bs.length < len.toNat) (b : Byte) (is : List Input) :
    storeByte b (receivingAt s len bs is) = receivingAt s len (bs ++ [b]) is := by
  simp [storeByte, receivingAt, Memory.writeFront_append_singleton, toNat_count wanted.le, BitVec.ofNat_add]

/-- A byte that is wanted is stored, and ends the RECV if it is the last (rule R244). -/
theorem step_receivingAt (hw : s.cfg.wf = true) (wanted : bs.length < len.toNat) (b : Byte) (is : List Input) :
    step (receivingAt s len bs (.rxByte b :: is)) = .next (finishIfFull len (receivingAt s len (bs ++ [b]) is)) := by
  have taken : takeRxByte b (receivingAt s len bs is) = finishIfFull len (storeByte b (receivingAt s len bs is)) :=
    if_pos (rxcount_receivingAt_lt wanted is)
  rw [step_cons (s := receivingAt s len bs (.rxByte b :: is)) hw rfl, ← storeByte_receivingAt wanted, ← taken]
  rfl

theorem finishIfFull_short (short : bs.length < len.toNat) (is : List Input) :
    finishIfFull len (receivingAt s len bs is) = receivingAt s len bs is := by
  refine if_neg fun full => ?_
  have count := congrArg BitVec.toNat full
  rw [receivingAt, toNat_count short.le] at count
  omega

theorem finishIfFull_full (full : bs.length = len.toNat) (is : List Input) :
    finishIfFull len (receivingAt s len bs is) =
      completeRecv len (classify s.cfg len bs) (receivingAt s len bs is) := by
  have received : response (receivingAt s len bs is) len = bs := by
    rw [response, ← full]
    exact Memory.run_writeFront s.rbuf bs
  rw [finishIfFull, if_pos (show (receivingAt s len bs is).rxcount = len from count_full full), received]
  rfl

/-- The bytes of a response, as many as are wanted or fewer; the RECV is still in progress unless they fill it. -/
theorem run_receivingAt (hw : s.cfg.wf = true) (nonempty : len ≠ 0) (fits : bs.length ≤ len.toNat)
    (is : List Input) :
    run bs.length (receivingAt s len [] (bs.map .rxByte ++ is)) =
      .next (finishIfFull len (receivingAt s len bs is)) := by
  induction bs using List.reverseRecOn generalizing is with
  | nil =>
    have wanted : ([] : List Byte).length < len.toNat := Nat.pos_of_ne_zero (BitVec.toNat_ne.mp nonempty)
    exact congrArg Host.Outcome.next (finishIfFull_short wanted is).symm
  | append_singleton bs b ih =>
    have wanted : bs.length < len.toNat := by simpa [Nat.succ_le_iff] using fits
    have before := ih wanted.le (.rxByte b :: is)
    rw [finishIfFull_short wanted] at before
    rw [List.map_append, List.append_assoc, List.length_append]
    exact (run_add before 1).trans (run_one (step_receivingAt hw wanted b is))

/-- A timeout while bytes are wanted ends the RECV (rule R246). -/
theorem step_receivingAt_timeout (hw : s.cfg.wf = true) (wanted : bs.length < len.toNat) (is : List Input) :
    step (receivingAt s len bs (.rxTimeout :: is)) =
      .next (completeRecv len .readTimeout (receivingAt s len bs is)) := by
  have taken : takeRxTimeout (receivingAt s len bs is) = completeRecv len .readTimeout (receivingAt s len bs is) :=
    if_pos (rxcount_receivingAt_lt wanted is)
  rw [step_cons (s := receivingAt s len bs (.rxTimeout :: is)) hw rfl, ← taken]
  rfl

/-- What a RECV begun with no exchange in progress has changed once it ends, whatever its result (rule R245). -/
theorem completeRecv_receivingAt (idle : s.seq = .idle) (r : ResultCode) (is : List Input) :
    completeRecv len r (receivingAt s len bs is) =
      { s with
        result := r
        rvalid := r == .ok
        rlen := if r = .ok then len else s.rlen
        rbuf := s.rbuf.writeFront bs
        rxcount := BitVec.ofNat 8 bs.length
        inputs := is
        outputs := s.outputs ++ [.rxRequest len s.timeout, .rsp (rspRecv (BitVec.ofNat 8 bs.length) r)] } := by
  simp [completeRecv, receivingAt, respond, emit, idle]

end

/-- Settles O44: the acceptance step, then the bytes; the outcome is `classify`'s on the whole response. -/
theorem recvReceivesResponse : Obligations.RecvReceivesResponse := by
  unfold Obligations.RecvReceivesResponse
  intro s len bs rest hr hw nonempty full hin
  have done := run_receivingAt hw nonempty full.le rest
  rw [← run_succ (step_recv hr hw nonempty hin), Nat.add_comm, finishIfFull_full full,
    completeRecv_receivingAt hr.idle, count_full full, classify_full full] at done
  refine ⟨_, done, ⟨fun rejected => ?rejected, fun good => ?good⟩, fun _ => Memory.read_writeFront_of_lt s.rbuf,
    fun _ => Memory.read_writeFront_of_ge s.rbuf, rfl⟩
  case rejected =>
    rw [if_pos rejected]
    exact ⟨rfl, rfl, rfl, rfl⟩
  case good =>
    rw [if_neg good]
    exact ⟨rfl, rfl, rfl, rfl⟩

/-- Settles O45: the acceptance step, then the bytes that come, then the timeout, which ends the RECV unclassified. -/
theorem recvCutShortTimesOut : Obligations.RecvCutShortTimesOut := by
  unfold Obligations.RecvCutShortTimesOut
  intro s len bs rest hr hw short hin
  have nonempty : len ≠ 0 := by
    rintro rfl
    exact Nat.not_lt_zero _ short
  have received := run_receivingAt hw nonempty short.le (.rxTimeout :: rest)
  rw [finishIfFull_short short] at received
  have done := run_one (step_receivingAt_timeout hw short rest)
  rw [← run_add received, ← run_succ (step_recv hr hw nonempty hin), completeRecv_receivingAt hr.idle] at done
  exact ⟨_, done, rfl, fun _ => Memory.read_writeFront_of_lt s.rbuf, fun _ => Memory.read_writeFront_of_ge s.rbuf⟩

end Sys2Proof.Machine
end

section
/-! SET_TIMEOUT and TIMEOUT_READ (rules R272 and R274): their whole effects in a CORE that accepts commands. Each is the
command's own effect behind `exec_ready`; `TIMEOUT` is answered zero-extended, which `rspTimeout_eq` says as a
concatenation. -/

namespace Sys2Proof.Machine

theorem exec_setTimeout_ready {s : State} (hr : Ready s) (ms : Millis) :
    exec (.setTimeout ms) s = .next { s with timeout := ms, outputs := s.outputs ++ [.rsp 0x00000000] } :=
  exec_ready hr (.setTimeout ms)

theorem exec_timeoutRead_ready {s : State} (hr : Ready s) :
    exec .timeoutRead s = .next { s with outputs := s.outputs ++ [.rsp (0#8 ++ s.timeout)] } := by
  rw [exec_ready hr, ← rspTimeout_eq]
  rfl

/-- Settles O51: the words are `encode`'s rows, and each command's effect is its own. -/
theorem timeoutCommandsEffects : Obligations.TimeoutCommandsEffects := by
  unfold Obligations.TimeoutCommandsEffects
  exact ⟨fun _ => rfl, rfl, fun _ ms hr => ⟨exec_setTimeout_ready hr ms, exec_timeoutRead_ready hr⟩⟩

end Sys2Proof.Machine
end

section
/-! Leaving the faulted state (rule R302): which transitions can write `STATUS[FAULT]` at all, and why the two that can are
no step of a faulted CORE with nothing in progress but reset. -/

namespace Sys2Proof.Machine

/-- Only fault entry and reset write the fault code. Fault entry happens without a fault, or on STATUS_READ while busy. -/
theorem Transition.fault_cases {s t : State} {i : Input} (h : Transition s i t) :
    t.fault = s.fault ∨ (s.fault = none ∨ s.seq ≠ .idle) ∨ i = .reset := by
  cases h with
  | faulted w code enters => exact .inr (.inl enters)
  | reset => exact .inr (.inr rfl)
  | _ => exact .inl rfl

/-- Settles O54: the invariant says that a faulted CORE is idle, so no fault entry can overwrite the first code. -/
theorem onlyResetLeavesFault : Obligations.OnlyResetLeavesFault := by
  unfold Obligations.OnlyResetLeavesFault
  intro s t c inv faulted hstep notReset
  have idle : s.seq = .idle := inv.quiescent (by simp [faulted])
  rcases step_transition hstep with ⟨_, rfl⟩ | ⟨i, rest, hin, htrans⟩
  · exact faulted
  · rcases htrans.fault_cases with kept | (noFault | busy) | isReset
    · exact kept.trans faulted
    · exact absurd (faulted.symm.trans noFault) (by simp)
    · exact absurd idle busy
    · exact absurd (by simp [hin, isReset]) notReset

end Sys2Proof.Machine
end

section
/-! The encoder and the decoder as inverses (rules R110 to R113, R130), the opcode table's rows as a third form of the
decoder, and the number an assembled textual form is. -/

namespace Sys2Proof

/-- The operand fields of a command's word make the command again. -/
theorem buildInstr_encode (i : Instr) : buildInstr (opcodeOf i) (encode i) = i := by
  cases i <;> simp [opcodeOf, encode, buildInstr]

theorem decode_encode (i : Instr) : decode (encode i) = .ok i := by
  obtain ⟨op, reserved⟩ := Laws.FieldsPlaced.every i
  exact decode_eq_ok.mpr ⟨opcodeOf i, op, reserved, (buildInstr_encode i).symm⟩

/-- A command of any operation code but SET_TIMEOUT, built from a word, is encoded by the fields its row uses. -/
theorem encode_buildInstr_of_ne {o : Opcode} (h : o ≠ .setTimeout) (w : Word) :
    encode (buildInstr o w) =
      packWord (opcodeByte o) (if usesA o then fieldA w else 0) (if usesB o then fieldB w else 0) 0 := by
  cases o with
  | setTimeout => exact absurd rfl h
  | _ => rfl

/-- Only SET_TIMEOUT uses the field `C` (rule R110). -/
theorem usesC_of_ne {o : Opcode} (h : o ≠ .setTimeout) : usesC o = false := by
  cases o with
  | setTimeout => exact absurd rfl h
  | _ => rfl

/-- The command built from a word with the row's `OP` and its must-be-0 fields zero is encoded by that word. -/
theorem encode_buildInstr {o : Opcode} {w : Word} (hop : fieldOp w = opcodeByte o) (hr : reservedZero o w = true) :
    encode (buildInstr o w) = w := by
  obtain ⟨hA, hB, hC⟩ := reservedZero_iff.mp hr
  by_cases ho : o = .setTimeout
  · subst ho
    exact (congrArg (packWordT · (fieldT w)) hop.symm).trans (packWordT_fields w)
  · have a : (if usesA o then fieldA w else 0) = fieldA w :=
      ite_eq_left_iff.mpr fun unused => (hA (Bool.eq_false_iff.mpr unused)).symm
    have b : (if usesB o then fieldB w else 0) = fieldB w :=
      ite_eq_left_iff.mpr fun unused => (hB (Bool.eq_false_iff.mpr unused)).symm
    rw [encode_buildInstr_of_ne ho, a, b, ← hop, ← hC (usesC_of_ne ho), packWord_fields]

theorem encode_of_decode {w : Word} {i : Instr} (h : decode w = .ok i) : encode i = w := by
  obtain ⟨o, hop, hr, rfl⟩ := decode_eq_ok.mp h
  exact encode_buildInstr hop hr

/-- Settles O2: the fields of the encoded word are placed as the command's row says, and make the command again. -/
theorem decodeOfEncode : Obligations.DecodeOfEncode := decode_encode

/-- Settles O3: a word that decodes has its row's `OP` and zero must-be-0 fields, so its fields are those the encoder
writes. -/
theorem encodeOfDecode : Obligations.EncodeOfDecode := fun _ _ => encode_of_decode

/-- Settles O1: each of the nine words is the encoding of its command. -/
theorem knownWordsDecode : Obligations.KnownWordsDecode := by
  unfold Obligations.KnownWordsDecode
  exact ⟨decode_encode .crcInit, decode_encode (.crcUpdate 0x31), decode_encode (.stuff 0x7E),
    decode_encode (.unstuff 0x7D), decode_encode (.pload 1 0x49), decode_encode (.send 0x21 2),
    decode_encode (.recv 12), decode_encode (.rread 5), decode_encode (.setTimeout 0x123456)⟩

theorem fieldOp_and (w v : Word) : fieldOp (w &&& v) = fieldOp w &&& fieldOp v := BitVec.extractLsb'_and

theorem fieldA_and (w v : Word) : fieldA (w &&& v) = fieldA w &&& fieldA v := BitVec.extractLsb'_and

theorem fieldB_and (w v : Word) : fieldB (w &&& v) = fieldB w &&& fieldB v := BitVec.extractLsb'_and

theorem fieldC_and (w v : Word) : fieldC (w &&& v) = fieldC w &&& fieldC v := BitVec.extractLsb'_and

theorem eq_iff_fields {w v : Word} : w = v ↔
    fieldOp w = fieldOp v ∧ fieldA w = fieldA v ∧ fieldB w = fieldB v ∧ fieldC w = fieldC v := by
  constructor
  · rintro rfl
    exact ⟨rfl, rfl, rfl, rfl⟩
  · rintro ⟨op, a, b, c⟩
    exact word_ext op a b c

/-- The mask of a table row on one field: all ones where the field is compared, zero where it is an operand. -/
def maskByte (isOperand : Bool) : Byte := if isOperand then 0x00 else 0xFF

/-- A masked field is zero exactly when the field is an operand or is zero. -/
theorem and_maskByte_eq_zero {x : Byte} {isOperand : Bool} :
    x &&& maskByte isOperand = 0 ↔ (isOperand = false → x = 0) := by
  cases isOperand with
  | false => simp [maskByte, show x &&& 0xFF#8 = x from BitVec.and_allOnes]
  | true => simp [maskByte]

/-- Each row's mask compares `OP` and the must-be-0 fields. -/
theorem tableMask_eq (o : Opcode) :
    tableMask o = packWord 0xFF (maskByte (usesA o)) (maskByte (usesB o)) (maskByte (usesC o)) := by
  cases o <;> rfl

theorem tableMatch_eq (o : Opcode) : tableMatch o = packWord (opcodeByte o) 0 0 0 := by
  cases o <;> rfl

/-- A word matches a row of the opcode table exactly when it has the row's `OP` and its must-be-0 fields are zero. -/
theorem and_tableMask_eq_tableMatch {w : Word} {o : Opcode} :
    w &&& tableMask o = tableMatch o ↔ fieldOp w = opcodeByte o ∧ reservedZero o w = true := by
  have compareOp : fieldOp w &&& 0xFF = fieldOp w := BitVec.and_allOnes
  rw [eq_iff_fields, fieldOp_and, fieldA_and, fieldB_and, fieldC_and, tableMask_eq, tableMatch_eq]
  simp only [fieldOp_packWord, fieldA_packWord, fieldB_packWord, fieldC_packWord]
  rw [compareOp, and_maskByte_eq_zero, and_maskByte_eq_zero, and_maskByte_eq_zero, reservedZero_iff]

/-- Settles O4: decoding to a command of a row and matching the row are the same condition on the word's fields. -/
theorem decoderAgreesWithOpcodeTable : Obligations.DecoderAgreesWithOpcodeTable := by
  unfold Obligations.DecoderAgreesWithOpcodeTable
  intro w o
  rw [and_tableMask_eq_tableMatch]
  constructor
  · rintro ⟨i, hd, rfl⟩
    obtain ⟨o, hop, hr, rfl⟩ := decode_eq_ok.mp hd
    rw [opcodeOf_buildInstr]
    exact ⟨hop, hr⟩
  · rintro ⟨hop, hr⟩
    exact ⟨buildInstr o w, decode_eq_ok.mpr ⟨o, hop, hr, rfl⟩, opcodeOf_buildInstr o w⟩

theorem toNat_append_eq_add {m n : Nat} (x : BitVec m) (y : BitVec n) :
    (x ++ y).toNat = x.toNat * 2 ^ n + y.toNat := by
  rw [BitVec.toNat_append, ← Nat.shiftLeft_add_eq_or_of_lt y.isLt, Nat.shiftLeft_eq]

/-- The number a word is, from its fields (rule R130). -/
theorem toNat_packWord (op a b c : Byte) :
    (packWord op a b c).toNat = op.toNat * 2 ^ 24 + a.toNat * 2 ^ 16 + b.toNat * 2 ^ 8 + c.toNat := by
  simp only [packWord, toNat_append_eq_add]
  omega

theorem toNat_packWordT (op : Byte) (t : Millis) : (packWordT op t).toNat = op.toNat * 2 ^ 24 + t.toNat :=
  toNat_append_eq_add op t

/-- The operands of a command as numbers, in the order of rule R113's columns. -/
def operandValues : Instr → List Nat
  | .crcInit => []
  | .crcUpdate b => [b.toNat]
  | .crcRead => []
  | .stuff b => [b.toNat]
  | .unstuffReset => []
  | .unstuff w => [w.toNat]
  | .pload idx v => [idx.toNat, v.toNat]
  | .send cmd n => [cmd.toNat, n.toNat]
  | .recv len => [len.toNat]
  | .rread idx => [idx.toNat]
  | .statusRead => []
  | .setTimeout ms => [ms.toNat]
  | .timeoutRead => []

/-- A command's word is its operation code and its operands, a missing one counting 0. -/
theorem toNat_encode {i : Instr} (h : opcodeOf i ≠ .setTimeout) :
    (encode i).toNat = (opcodeByte (opcodeOf i)).toNat * 2 ^ 24 + (operandValues i).getD 0 0 * 2 ^ 16 +
      (operandValues i).getD 1 0 * 2 ^ 8 := by
  cases i with
  | setTimeout ms => exact absurd rfl h
  | _ => simp [encode, opcodeOf, opcodeByte, operandValues, toNat_packWord]

end Sys2Proof

namespace Sys2Proof.Machine

theorem byteOperand_eq_some {v : Nat} {b : Byte} (h : byteOperand v = some b) : v = b.toNat := by
  unfold byteOperand at h
  split at h
  · next fits =>
    cases h
    rw [BitVec.toNat_ofNat, Nat.mod_eq_of_lt fits]
  · cases h

/-- A form of one byte operand assembles to the command that carries it. -/
theorem map_byteOperand_eq_some {v : Nat} {f : Byte → Instr} {i : Instr} (h : (byteOperand v).map f = some i) :
    ∃ b : Byte, i = f b ∧ v = b.toNat := by
  obtain ⟨b, hb, rfl⟩ := Option.map_eq_some_iff.mp h
  exact ⟨b, rfl, byteOperand_eq_some hb⟩

theorem bind_byteOperand_eq_some {u v : Nat} {f : Byte → Byte → Instr} {i : Instr}
    (h : ((byteOperand u).bind fun a => (byteOperand v).map (f a)) = some i) :
    ∃ a b : Byte, i = f a b ∧ u = a.toNat ∧ v = b.toNat := by
  obtain ⟨a, ha, h⟩ := Option.bind_eq_some_iff.mp h
  obtain ⟨b, rfl, hb⟩ := map_byteOperand_eq_some h
  exact ⟨a, b, rfl, byteOperand_eq_some ha, hb⟩

/-- What assembles to a command is the command's own operation code and operands. The cases are the rows of `assemble` in
its order: two byte operands (PLOAD, SEND), one byte operand, SET_TIMEOUT, no form at all, and no operand. -/
theorem assemble_eq_some {op : Opcode} {operands : List Nat} {i : Instr} (h : assemble op operands = some i) :
    op = opcodeOf i ∧ operands = operandValues i := by
  unfold assemble at h
  split at h
  case h_7 | h_8 =>
    obtain ⟨a, b, rfl, rfl, rfl⟩ := bind_byteOperand_eq_some h
    exact ⟨rfl, rfl⟩
  case h_2 | h_4 | h_6 | h_9 | h_10 =>
    obtain ⟨b, rfl, rfl⟩ := map_byteOperand_eq_some h
    exact ⟨rfl, rfl⟩
  case h_12 ms =>
    split at h
    · next fits =>
      cases h
      have value : (BitVec.ofNat 24 ms).toNat = ms := by rw [BitVec.toNat_ofNat, Nat.mod_eq_of_lt fits]
      exact ⟨rfl, congrArg ([·]) value.symm⟩
    · cases h
  case h_14 => cases h
  all_goals
    cases h
    exact ⟨rfl, rfl⟩

/-- Settles O7: an assembled command has the form's own operands, and its word is their number. -/
theorem assembledWordsPlaceOperands : Obligations.AssembledWordsPlaceOperands := by
  unfold Obligations.AssembledWordsPlaceOperands
  intro op operands i h
  obtain ⟨rfl, rfl⟩ := assemble_eq_some h
  refine ⟨fun isTimeout => ?_, toNat_encode⟩
  cases i with
  | setTimeout ms => exact ⟨ms.toNat, rfl, ms.isLt, toNat_packWordT _ ms⟩
  | _ => cases isTimeout

/-- Settles O8: the step takes the one input at the head, and the decoder selects the command. -/
theorem stepRunsDecodedCommand : Obligations.StepRunsDecodedCommand := by
  unfold Obligations.StepRunsDecodedCommand
  intro s w rest i hw hin hd
  rw [step_cons hw hin]
  simp only [takeInput, takeCommand, hd]

end Sys2Proof.Machine
end

section
/-! The invariant of every reachable state: it holds at reset, every transition keeps it, and under it every step has a
next state. A state is shown to have it by its buffers (`BuffersInv`) and by its sequencer's mode. -/

namespace Sys2Proof.Machine

/-- The invariant's clauses about the buffers and their counters (rules R38 to R42). -/
structure BuffersInv (pbuf rbuf : Memory) (rxcount rlen : Byte) (rvalid : Bool) : Prop where
  pbufForm : pbuf.wf Config.pbufSize = true
  rbufForm : rbuf.wf Config.rbufSize = true
  received : ∀ i < rxcount.toNat, ∃ b, rbuf.read i = some b
  readable : rvalid = true → rlen = rxcount

section
variable {s : State}

theorem Inv.buffers (inv : Inv s) : BuffersInv s.pbuf s.rbuf s.rxcount s.rlen s.rvalid :=
  ⟨inv.pbufForm, inv.rbufForm, inv.received, inv.readable⟩

theorem Inv.of_idle (idle : s.seq = .idle) (h : BuffersInv s.pbuf s.rbuf s.rxcount s.rlen s.rvalid) : Inv s where
  pbufForm := h.pbufForm
  rbufForm := h.rbufForm
  received := h.received
  readable := h.readable
  quiescent _ := idle
  sending _ _ _ hq := nomatch idle.symm.trans hq
  receiving _ hq := nomatch idle.symm.trans hq

theorem Inv.of_tx {body : List Byte} {k : Nat} {pend : List Byte} (noFault : s.fault = none)
    (hq : s.seq = .tx body k pend) (tx : TxInv s body k pend)
    (h : BuffersInv s.pbuf s.rbuf s.rxcount s.rlen s.rvalid) : Inv s where
  pbufForm := h.pbufForm
  rbufForm := h.rbufForm
  received := h.received
  readable := h.readable
  quiescent faulted := absurd noFault faulted
  sending _ _ _ hq' := by
    cases hq.symm.trans hq'
    exact tx
  receiving _ hq' := nomatch hq.symm.trans hq'

theorem Inv.of_rx {len : Byte} (noFault : s.fault = none) (hq : s.seq = .rx len) (rx : RxInv s len)
    (h : BuffersInv s.pbuf s.rbuf s.rxcount s.rlen s.rvalid) : Inv s where
  pbufForm := h.pbufForm
  rbufForm := h.rbufForm
  received := h.received
  readable := h.readable
  quiescent faulted := absurd noFault faulted
  sending _ _ _ hq' := nomatch hq.symm.trans hq'
  receiving _ hq' := by
    cases hq.symm.trans hq'
    exact rx

/-- While an exchange is in progress there is no fault (rule R300). -/
theorem Inv.noFault (inv : Inv s) (busy : s.seq ≠ .idle) : s.fault = none :=
  not_not.mp fun faulted => busy (inv.quiescent faulted)

/-- The invariant does not speak of what comes in next. -/
theorem Inv.setInputs (inv : Inv s) (is : List Input) : Inv { s with inputs := is } where
  pbufForm := inv.pbufForm
  rbufForm := inv.rbufForm
  received := inv.received
  readable := inv.readable
  quiescent := inv.quiescent
  sending body k pend hq := by
    obtain ⟨captured, inRange, checksum, pending, outstanding⟩ := inv.sending body k pend hq
    exact ⟨captured, inRange, checksum, pending, outstanding⟩
  receiving len hq := by
    obtain ⟨wanted, unreadable⟩ := inv.receiving len hq
    exact ⟨wanted, unreadable⟩

end

/-- The buffers after reset. -/
theorem buffersInv_reset : BuffersInv [] [] 0 0 false :=
  ⟨Memory.wf_nil _, Memory.wf_nil _, nofun, nofun⟩

/-- Settles O13: the buffers are empty and nothing is in progress. -/
theorem resetHasInv : Obligations.ResetHasInv := fun _ => Inv.of_idle rfl buffersInv_reset

section
variable {pbuf rbuf : Memory} {rxcount rlen : Byte} {rvalid : Bool}

/-- Writing a parameter (rule R201). -/
theorem BuffersInv.writeParam {j : Nat} (v : Byte) (h : BuffersInv pbuf rbuf rxcount rlen rvalid) (hj : j < 254) :
    BuffersInv (pbuf.write j v) rbuf rxcount rlen rvalid :=
  ⟨Memory.wf_write v h.pbufForm hj, h.rbufForm, h.received, h.readable⟩

/-- A RECV's acceptance counts no byte yet (rules R242, R243). -/
theorem BuffersInv.beginRecv {rlen' : Byte} {rvalid' : Bool} (h : BuffersInv pbuf rbuf rxcount rlen rvalid)
    (readable : rvalid' = true → rlen' = 0) : BuffersInv pbuf rbuf 0 rlen' rvalid' :=
  ⟨h.pbufForm, h.rbufForm, nofun, readable⟩

/-- Storing a byte that is wanted (rule R244). -/
theorem BuffersInv.storeByte {len rlen' : Byte} {rvalid' : Bool} (b : Byte)
    (h : BuffersInv pbuf rbuf rxcount rlen rvalid) (wanted : rxcount.toNat < len.toNat)
    (readable : rvalid' = true → rlen' = rxcount + 1) :
    BuffersInv pbuf (rbuf.write rxcount.toNat b) (rxcount + 1) rlen' rvalid' where
  pbufForm := h.pbufForm
  rbufForm := Memory.wf_write b h.rbufForm (by have := len.isLt; simp only [Config.rbufSize]; omega)
  received i hi := by
    rw [toNat_rxcount_succ wanted] at hi
    rw [Memory.read_write]
    split
    · exact ⟨b, rfl⟩
    · exact h.received i (by omega)
  readable := readable

/-- Buffers none of which is readable. -/
theorem BuffersInv.unreadable (h : BuffersInv pbuf rbuf rxcount rlen rvalid) (rlen' : Byte) :
    BuffersInv pbuf rbuf rxcount rlen' false :=
  ⟨h.pbufForm, h.rbufForm, h.received, nofun⟩

end

/-- The last byte of a response that fills `RXCOUNT` ends the RECV, readable or not (rules R244, R245). -/
theorem Inv.recvDone {s : State} {len : Byte} (b : Byte) (r : ResultCode) (inv : Inv s)
    (wanted : s.rxcount.toNat < len.toNat) (full : s.rxcount + 1 = len) : Inv (completeRecv len r (storeByte b s)) := by
  refine Inv.of_idle rfl (inv.buffers.storeByte b wanted fun good => ?_)
  have ok : r = .ok := completeRecv_readable.mp good
  rw [completeRecv_rlen, if_pos ok, full]

/-- A byte stored while more are wanted leaves the RECV in order (rule R244). -/
theorem Inv.byteStored {s : State} {len : Byte} (b : Byte) (inv : Inv s) (hq : s.seq = .rx len)
    (notFull : s.rxcount + 1 ≠ len) : Inv (storeByte b s) := by
  obtain ⟨wanted, unreadable⟩ := inv.receiving len hq
  have noFault := inv.noFault (by simp [hq])
  refine Inv.of_rx noFault hq ⟨?wanted, unreadable⟩ (inv.buffers.storeByte b wanted ?readable)
  case readable => simp [unreadable]
  case wanted =>
    have ne : s.rxcount.toNat + 1 ≠ len.toNat := by
      rw [← toNat_rxcount_succ wanted]
      exact BitVec.toNat_ne.mp notFull
    rw [storeByte_rxcount, toNat_rxcount_succ wanted]
    omega

/-- The outstanding write is the last output once the first of the pending bytes has been offered (rules R73, R213). -/
theorem getLast?_offered (outputs : List Output) {pend : List Byte} (h : pend ≠ []) :
    (outputs ++ (pend.take 1).map Output.txWrite).getLast? = pend.head?.map Output.txWrite := by
  cases pend with
  | nil => exact absurd rfl h
  | cons w more => simp

/-- A SEND that starts is in order (rule R209). -/
theorem txInv_sendStarted (s : State) (cmd : Byte) {ps : List Byte} (bound : ps.length ≤ 254) :
    TxInv { s with crc := 0xFFFF, seq := .tx (frameBody cmd ps) 0 [s.cfg.stx],
                   outputs := s.outputs ++ [.txWrite s.cfg.stx] } (frameBody cmd ps) 0 [s.cfg.stx] where
  captured := ⟨cmd, ps, rfl, bound⟩
  inRange := Nat.zero_le _
  checksum := rfl
  pending := ⟨List.cons_ne_nil _ _, List.suffix_rfl⟩
  outstanding := getLast?_offered s.outputs (List.cons_ne_nil _ _)

/-- The second byte of an escaped pair keeps the SEND in order (rule R214). -/
theorem TxInv.pairAcked {s : State} {body : List Byte} {k : Nat} {a w : Byte} {rest : List Byte}
    (tx : TxInv s body k (a :: w :: rest)) :
    TxInv (offerItem body k (w :: rest) { s with wire := s.wire ++ [a] }) body k (w :: rest) where
  captured := tx.captured
  inRange := tx.inRange
  checksum := tx.checksum
  pending := ⟨List.cons_ne_nil _ _, (List.suffix_cons a _).trans tx.pending.2⟩
  outstanding := getLast?_offered s.outputs (List.cons_ne_nil _ _)

/-- The next item started keeps the SEND in order (rules R211, R213, R214). -/
theorem TxInv.itemAcked {s : State} {body : List Byte} {k : Nat} {pend p : List Byte} {c : Crc}
    (tx : TxInv s body k pend) (notLast : k ≠ body.length + 2)
    (started : c = crc16 (body.take (k + 1)) ∧ p = itemWire s.cfg body (k + 1)) :
    TxInv { s with wire := s.wire ++ pend.take 1, crc := c, seq := .tx body (k + 1) p,
                   outputs := s.outputs ++ (p.take 1).map .txWrite } body (k + 1) p := by
  obtain ⟨checksum, rfl⟩ := started
  have nonempty := itemWire_ne_nil s.cfg body (k + 1)
  exact
    { captured := tx.captured
      inRange := by have := tx.inRange; omega
      checksum := checksum
      pending := ⟨nonempty, List.suffix_rfl⟩
      outstanding := getLast?_offered s.outputs nonempty }

/-- Every transition keeps the invariant. -/
theorem Transition.keeps_inv {s t : State} {i : Input} (h : Transition s i t) (inv : Inv s) : Inv t := by
  have buffers := inv.buffers
  cases h with
  | ignored w faulted => exact Inv.of_idle (inv.quiescent faulted) buffers
  | faulted => exact Inv.of_idle rfl buffers
  | answered w i r c e p ms _ _ _ idle _ _ params =>
    obtain rfl | ⟨j, v, hj, rfl⟩ := params
    · exact Inv.of_idle idle buffers
    · exact Inv.of_idle idle (buffers.writeParam v hj)
  | sendRejected => exact Inv.of_idle rfl buffers
  | sendStarted w cmd ps noFault _ bound => exact Inv.of_tx noFault rfl (txInv_sendStarted s cmd bound) buffers
  | recvEmpty => exact Inv.of_idle rfl (buffers.beginRecv fun _ => rfl)
  | recvStarted w len noFault _ nonempty =>
    have wanted : 0 < len.toNat := Nat.pos_of_ne_zero (BitVec.toNat_ne.mp nonempty)
    exact Inv.of_rx noFault rfl ⟨wanted, rfl⟩ (buffers.beginRecv nofun)
  | dropped => exact inv
  | writeFailed => exact Inv.of_idle rfl buffers
  | pairAcked body k a w rest hq =>
    exact Inv.of_tx (inv.noFault (by simp [hq])) rfl (inv.sending _ _ _ hq).pairAcked buffers
  | sendDone => exact Inv.of_idle rfl buffers
  | itemAcked body k pend c p hq _ notLast _ started =>
    have tx := inv.sending _ _ _ hq
    exact Inv.of_tx (inv.noFault (by simp [hq])) rfl (tx.itemAcked notLast (started tx.checksum)) buffers
  | byteStored len b hq _ notFull => exact inv.byteStored b hq notFull
  | recvDone len b _ wanted full => exact inv.recvDone b _ wanted full
  | recvTimedOut len => exact Inv.of_idle rfl (buffers.unreadable _)
  | reset => exact Inv.of_idle rfl buffersInv_reset

/-- Settles O12: a step waits, or consumes an input and makes one transition. -/
theorem stepKeepsInv : Obligations.StepKeepsInv := by
  unfold Obligations.StepKeepsInv
  intro s t inv hstep
  obtain ⟨_, rfl⟩ | ⟨i, rest, _, htrans⟩ := step_transition hstep
  · exact inv
  · exact htrans.keeps_inv (inv.setInputs rest)

/-- A byte of a readable response is there (rules R245, R247). -/
theorem Inv.read_response {s : State} {idx : Byte} (inv : Inv s) (readable : s.rvalid = true)
    (inRange : idx.toNat < s.rlen.toNat) : ∃ b, s.rbuf.read idx.toNat = some b :=
  inv.received _ (inv.readable readable ▸ inRange)

section
variable {s : State}

theorem ownEffect_completes (inv : Inv s) (i : Instr) : ∃ t, ownEffect i s = .next t := by
  cases i with
  | rread idx =>
    obtain ⟨_, h⟩ | ⟨_, _, h⟩ | ⟨_, _, _, _, h⟩ | ⟨readable, inRange, missing, _⟩ := readResponse_cases idx s
    · exact ⟨_, h⟩
    · exact ⟨_, h⟩
    · exact ⟨_, h⟩
    · obtain ⟨b, held⟩ := inv.read_response readable inRange
      exact nomatch missing.symm.trans held
  | _ => exact ⟨_, rfl⟩

theorem exec_completes (inv : Inv s) (i : Instr) : ∃ t, exec i s = .next t := by
  obtain ⟨_, _, h⟩ | ⟨_, _, h⟩ | ⟨_, _, h⟩ := exec_cases (i := i) (s := s) rfl
  · exact ⟨_, h⟩
  · exact ⟨_, h⟩
  · rw [h]
    exact ownEffect_completes inv i

theorem takeCommand_completes (inv : Inv s) (w : Word) : ∃ t, takeCommand w s = .next t := by
  obtain ⟨i, _, h⟩ | ⟨e, _, h⟩ := takeCommand_cases (w := w) (s := s) rfl
  · rw [h]
    exact exec_completes inv i
  · obtain ⟨_, h'⟩ | ⟨_, _, h'⟩ | ⟨_, h'⟩ := accept_cases h.symm
    · exact ⟨_, h'⟩
    · exact ⟨_, h'⟩
    · exact ⟨_, h'⟩

theorem takeInput_completes (inv : Inv s) (i : Input) : ∃ t, takeInput i s = .next t := by
  cases i with
  | command w => exact takeCommand_completes inv w
  | _ => exact ⟨_, rfl⟩

end

/-- Settles O11: RREAD of a byte that was never received is the one stop, and the invariant says it was. -/
theorem everyStepCompletes : Obligations.EveryStepCompletes := by
  unfold Obligations.EveryStepCompletes
  intro s inv hw
  cases hin : s.inputs with
  | nil => exact ⟨s, step_nil hw hin⟩
  | cons i rest =>
    rw [step_cons hw hin]
    exact takeInput_completes (inv.setInputs rest) i

end Sys2Proof.Machine
end

section
/-! What the commands and the transport events of an exchange leave alone (rules R70, R181, R206, R242), and the same of
the stuffer's and the checksum's commands (rules R157, R181). -/

namespace Sys2Proof.Machine

/-- What SEND and the answers to its writes leave as it is (rule R206). -/
def SendFrame (s t : State) : Prop :=
  t.pbuf = s.pbuf ∧ t.rbuf = s.rbuf ∧ t.rlen = s.rlen ∧ t.rvalid = s.rvalid ∧ t.rxcount = s.rxcount ∧
    t.timeout = s.timeout ∧ t.escp = s.escp

/-- What RECV and the transport events of a read leave as it is (rule R242). -/
def RecvFrame (s t : State) : Prop :=
  t.crc = s.crc ∧ t.escp = s.escp ∧ t.pbuf = s.pbuf ∧ t.timeout = s.timeout ∧ t.wire = s.wire

section
variable {s t : State}

theorem beginSend_frame (cmd n : Byte) (s : State) : SendFrame s (beginSend cmd n s) := by
  obtain ⟨_, h⟩ | ⟨_, _, h⟩ | ⟨_, _, h⟩ := beginSend_cases cmd n s
  all_goals
    rw [h]
    exact ⟨rfl, rfl, rfl, rfl, rfl, rfl, rfl⟩

theorem exec_send_frame {cmd n : Byte} (h : exec (.send cmd n) s = .next t) : SendFrame s t := by
  obtain ⟨_, _, h⟩ | ⟨_, _, h⟩ | ⟨_, _, h⟩ := exec_cases h
  · cases h
    exact ⟨rfl, rfl, rfl, rfl, rfl, rfl, rfl⟩
  · cases h
    exact ⟨rfl, rfl, rfl, rfl, rfl, rfl, rfl⟩
  · cases h
    exact beginSend_frame cmd n s

theorem takeTxAck_frame (ok : Bool) (s : State) : SendFrame s (takeTxAck ok s) := by
  have htrans := takeTxAck_transition ok s
  generalize takeTxAck ok s = t at htrans
  cases htrans with
  | _ => exact ⟨rfl, rfl, rfl, rfl, rfl, rfl, rfl⟩

theorem beginRecv_frame (len : Byte) (s : State) : RecvFrame s (beginRecv len s) := by
  obtain ⟨_, h⟩ | ⟨_, h⟩ := beginRecv_cases len s
  all_goals
    rw [h]
    exact ⟨rfl, rfl, rfl, rfl, rfl⟩

theorem exec_recv_frame {len : Byte} (h : exec (.recv len) s = .next t) : RecvFrame s t := by
  obtain ⟨_, _, h⟩ | ⟨_, _, h⟩ | ⟨_, _, h⟩ := exec_cases h
  · cases h
    exact ⟨rfl, rfl, rfl, rfl, rfl⟩
  · cases h
    exact ⟨rfl, rfl, rfl, rfl, rfl⟩
  · cases h
    exact beginRecv_frame len s

theorem takeRxByte_frame (b : Byte) (s : State) : RecvFrame s (takeRxByte b s) := by
  obtain h | ⟨_, _, _, ⟨_, h⟩ | ⟨_, h⟩⟩ := takeRxByte_cases b s
  all_goals
    rw [h]
    exact ⟨rfl, rfl, rfl, rfl, rfl⟩

theorem takeRxTimeout_frame (s : State) : RecvFrame s (takeRxTimeout s) := by
  obtain h | ⟨_, _, _, h⟩ := takeRxTimeout_cases s
  all_goals
    rw [h]
    exact ⟨rfl, rfl, rfl, rfl, rfl⟩

/-- A SEND's acceptance and every answer to a write keep rule R206's frame. -/
theorem send_frame {cmd n : Byte} {ok : Bool}
    (h : exec (.send cmd n) s = .next t ∨ takeInput (.txAck ok) s = .next t) : SendFrame s t := by
  obtain h | h := h
  · exact exec_send_frame h
  · cases h
    exact takeTxAck_frame ok s

/-- A RECV's acceptance, every response byte and every read timeout keep rule R242's frame. -/
theorem recv_frame {len b : Byte} (h : exec (.recv len) s = .next t ∨ takeInput (.rxByte b) s = .next t ∨
    takeInput .rxTimeout s = .next t) : RecvFrame s t := by
  obtain h | h | h := h
  · exact exec_recv_frame h
  · cases h
    exact takeRxByte_frame b s
  · cases h
    exact takeRxTimeout_frame s

end

/-- Settles O48: the two halves are the frames of the send path and of the receive path. -/
theorem exchangeFrames : Obligations.ExchangeFrames := by
  unfold Obligations.ExchangeFrames
  exact ⟨fun _ _ _ _ _ => send_frame, fun _ _ _ _ => recv_frame⟩

/-- `exec_cases` without its conditions on the fault: a command is ignored, faults `BUSY`, or has its own effect. -/
theorem exec_eq_next {i : Instr} {s t : State} (h : exec i s = .next t) :
    t = ignoreCommand s ∨ (s.seq ≠ .idle ∧ t = raiseFault .busy s) ∨ ownEffect i s = .next t := by
  obtain ⟨_, _, h⟩ | ⟨_, busy, h⟩ | ⟨_, _, h⟩ := exec_cases h
  · cases h
    exact .inl rfl
  · cases h
    exact .inr (.inl ⟨busy, rfl⟩)
  · exact .inr (.inr h.symm)

/-- Settles O23: each of the three commands' own effect is an answer and at most a new checksum. -/
theorem crcCommandsFrame : Obligations.CrcCommandsFrame := by
  unfold Obligations.CrcCommandsFrame
  intro s t i isCrc h
  obtain rfl | ⟨busy, rfl⟩ | own := exec_eq_next h
  · exact .inl ⟨rspFault, rfl⟩
  · exact .inr ⟨busy, rfl⟩
  · left
    obtain rfl | ⟨b, rfl⟩ | rfl := isCrc
    all_goals
      cases own
      exact ⟨_, rfl⟩

/-- STUFF, UNSTUFF_RESET and UNSTUFF write at most `ESCP` (rule R181). -/
theorem exec_stuffer_frame {i : Instr} {s t : State}
    (isStuffer : (∃ b, i = .stuff b) ∨ i = .unstuffReset ∨ ∃ w, i = .unstuff w) (h : exec i s = .next t) :
    (∃ r, t = { s with escp := t.escp, outputs := s.outputs ++ [.rsp r] }) ∨
      (s.seq ≠ .idle ∧ t = { s with fault := some .busy, seq := .idle, outputs := s.outputs ++ [.rsp 0xFFFFFFFF] }) := by
  obtain rfl | ⟨busy, rfl⟩ | own := exec_eq_next h
  · exact .inl ⟨rspFault, rfl⟩
  · exact .inr ⟨busy, rfl⟩
  · left
    obtain ⟨b, rfl⟩ | rfl | ⟨w, rfl⟩ := isStuffer
    all_goals
      cases own
      exact ⟨_, rfl⟩

/-- Settles O29: the stuffer's own effects write `ESCP` and answer; that exchanges keep `ESCP` is part of their frames. -/
theorem stufferAndExchangesKeepApart : Obligations.StufferAndExchangesKeepApart := by
  unfold Obligations.StufferAndExchangesKeepApart
  refine ⟨fun _ _ _ => exec_stuffer_frame, fun s t cmd n len h => ?commands, fun s t ok b h => ?events⟩
  case commands =>
    obtain h | h := h
    · obtain ⟨_, _, _, _, _, _, escp⟩ := exec_send_frame h
      exact escp
    · obtain ⟨_, escp, _⟩ := exec_recv_frame h
      exact escp
  case events =>
    obtain h | h := h
    · cases h
      obtain ⟨_, _, _, _, _, _, escp⟩ := takeTxAck_frame ok s
      exact escp
    · obtain ⟨_, escp, _⟩ := recv_frame (len := 0) (.inr h)
      exact escp

end Sys2Proof.Machine
end

section
/-! Stale response bytes (rules R72, R244, R247): the `RBUF` bytes the current or last RECV has not delivered never show.
All but RREAD and a delivered byte leave `RBUF` out of account altogether (`withRbuf` passes through them); RREAD and the
completion of a RECV read delivered bytes only. -/

namespace Sys2Proof.Machine

/-- `s` with other contents of `RBUF`. -/
def withRbuf (r : Memory) (s : State) : State := { s with rbuf := r }

section
variable (r : Memory) (s : State)

theorem loadParam_withRbuf (idx v : Byte) : loadParam idx v (withRbuf r s) = withRbuf r (loadParam idx v s) := by
  unfold loadParam
  split <;> rfl

theorem beginSend_withRbuf (cmd n : Byte) : beginSend cmd n (withRbuf r s) = withRbuf r (beginSend cmd n s) := by
  have params : sendParams (withRbuf r s) n = sendParams s n := rfl
  unfold beginSend
  rw [params]
  split
  · rfl
  · split <;> rfl

theorem beginRecv_withRbuf (len : Byte) : beginRecv len (withRbuf r s) = withRbuf r (beginRecv len s) := by
  unfold beginRecv
  split <;> rfl

theorem startItem_withRbuf (body : List Byte) (k : Nat) :
    startItem body k (withRbuf r s) = withRbuf r (startItem body k s) := by
  unfold startItem
  split
  · rfl
  · split
    · rfl
    · split <;> rfl

theorem txAccepted_withRbuf (body : List Byte) (k : Nat) (pend : List Byte) :
    txAccepted body k pend (withRbuf r s) = withRbuf r (txAccepted body k pend s) := by
  unfold txAccepted
  split
  · rfl
  · split
    · rfl
    · exact startItem_withRbuf r { s with wire := s.wire ++ pend.take 1 } body (k + 1)

theorem takeTxAck_withRbuf (ok : Bool) : takeTxAck ok (withRbuf r s) = withRbuf r (takeTxAck ok s) := by
  have seq : (withRbuf r s).seq = s.seq := rfl
  unfold takeTxAck
  rw [seq]
  split
  · cases ok with
    | false => rfl
    | true => exact txAccepted_withRbuf r s _ _ _
  · rfl
  · rfl

theorem takeRxTimeout_withRbuf : takeRxTimeout (withRbuf r s) = withRbuf r (takeRxTimeout s) := by
  have seq : (withRbuf r s).seq = s.seq := rfl
  have rxcount : (withRbuf r s).rxcount = s.rxcount := rfl
  unfold takeRxTimeout
  rw [seq, rxcount]
  split
  · split <;> rfl
  · rfl
  · rfl

end

theorem SameButStaleBytes.refl (s : State) : SameButStaleBytes s s := ⟨rfl, fun _ _ => rfl⟩

/-- An operation that leaves `RBUF` out of account and counts no byte as received shows no stale one. -/
theorem SameButStaleBytes.map {f : State → State} {s t : State} (same : SameButStaleBytes s t)
    (apart : ∀ r, f (withRbuf r s) = withRbuf r (f s)) (count : (f s).rxcount.toNat ≤ s.rxcount.toNat) :
    SameButStaleBytes (f s) (f t) := by
  have rbuf : (f s).rbuf = s.rbuf := (congrArg State.rbuf (apart s.rbuf) :)
  have ft : f t = withRbuf t.rbuf (f s) := (congrArg f same.rest).trans (apart t.rbuf)
  rw [ft]
  exact ⟨rfl, fun i hi => (same.delivered i (hi.trans_le count)).trans (congrArg (Memory.read · i) rbuf.symm)⟩

/-- Storing a wanted byte delivers the same byte on both sides (rule R244). -/
theorem SameButStaleBytes.storeByte {s t : State} {len : Byte} (same : SameButStaleBytes s t) (b : Byte)
    (wanted : s.rxcount.toNat < len.toNat) : SameButStaleBytes (storeByte b s) (storeByte b t) := by
  have rxcount : t.rxcount = s.rxcount := by rw [same.rest]
  refine ⟨?rest, fun i hi => ?delivered⟩
  case rest =>
    have ht := same.rest
    generalize t.rbuf = r at ht
    subst ht
    rfl
  case delivered =>
    rw [storeByte_rxcount, toNat_rxcount_succ wanted] at hi
    rw [storeByte_rbuf, storeByte_rbuf, rxcount, Memory.read_write, Memory.read_write]
    split
    · rfl
    · exact same.delivered i (by omega)

/-- The response a RECV classifies is delivered bytes only (rules R241, R244). -/
theorem SameButStaleBytes.finishIfFull {s t : State} (same : SameButStaleBytes s t) (len : Byte) :
    SameButStaleBytes (finishIfFull len s) (finishIfFull len t) := by
  have cfg : t.cfg = s.cfg := by rw [same.rest]
  have rxcount : t.rxcount = s.rxcount := by rw [same.rest]
  unfold Machine.finishIfFull
  rw [rxcount]
  split
  · next full =>
    have delivered : response t len = response s len :=
      Memory.run_congr fun j hj => by
        rw [Nat.zero_add]
        exact same.delivered j (full ▸ hj)
    rw [cfg, delivered]
    exact same.map (f := completeRecv len (classify s.cfg len (response s len))) (fun _ => rfl) le_rfl
  · exact same

theorem SameButStaleBytes.takeRxByte {s t : State} (same : SameButStaleBytes s t) (b : Byte) :
    SameButStaleBytes (takeRxByte b s) (takeRxByte b t) := by
  have seq : t.seq = s.seq := by rw [same.rest]
  have rxcount : t.rxcount = s.rxcount := by rw [same.rest]
  unfold Machine.takeRxByte
  rw [seq, rxcount]
  split
  · split
    · next wanted => exact (same.storeByte b wanted).finishIfFull _
    · exact same
  · exact same
  · exact same

theorem SameButStaleBytes.applyReset {s t : State} (same : SameButStaleBytes s t) :
    SameButStaleBytes (applyReset s) (applyReset t) := by
  have reset : Machine.applyReset t = Machine.applyReset s := by
    rw [same.rest]
    rfl
  rw [reset]
  exact .refl _

/-- `f` shows no stale byte in `s`: from a state that differs from `s` only in such bytes it leads to a state that differs
only in such bytes. -/
def HidesStaleBytes (f : State → Result) (s : State) : Prop :=
  ∀ t s', SameButStaleBytes s t → f s = .next s' → ∃ t', f t = .next t' ∧ SameButStaleBytes s' t'

theorem hidesStaleBytes_next {f : State → State} {s : State}
    (h : ∀ t, SameButStaleBytes s t → SameButStaleBytes (f s) (f t)) : HidesStaleBytes (fun s => .next (f s)) s := by
  intro t s' same hs
  cases hs
  exact ⟨f t, rfl, h t same⟩

/-- A meaning that leaves `RBUF` out of account and counts no byte as received. -/
theorem hidesStaleBytes_apart {f : State → State} {s : State} (apart : ∀ r, f (withRbuf r s) = withRbuf r (f s))
    (count : (f s).rxcount.toNat ≤ s.rxcount.toNat) : HidesStaleBytes (fun s => .next (f s)) s :=
  hidesStaleBytes_next fun _ same => same.map apart count

section
variable {s : State}

theorem hidesStaleBytes_accept {body : State → Result} (h : HidesStaleBytes body s) :
    HidesStaleBytes (accept body) s := by
  intro t s' same hs
  have fault : t.fault = s.fault := by rw [same.rest]
  have seq : t.seq = s.seq := by rw [same.rest]
  obtain ⟨faulted, hs⟩ | ⟨noFault, busy, hs⟩ | ⟨ready, hs⟩ := accept_cases hs
  · cases hs
    exact ⟨_, accept_faulted (fault ▸ faulted) body, same.map (fun _ => rfl) le_rfl⟩
  · cases hs
    exact ⟨_, accept_busy (fault.trans noFault) (seq ▸ busy) body, same.map (f := raiseFault .busy) (fun _ => rfl) le_rfl⟩
  · rw [accept_ready ⟨fault.trans ready.noFault, seq.trans ready.idle⟩]
    exact h t s' same hs.symm

theorem hidesStaleBytes_acceptStatusRead {body : State → Result} (h : HidesStaleBytes body s) :
    HidesStaleBytes (acceptStatusRead body) s := by
  intro t s' same hs
  have seq : t.seq = s.seq := by rw [same.rest]
  by_cases idle : s.seq = .idle
  · rw [acceptStatusRead_idle idle] at hs
    rw [acceptStatusRead_idle (seq.trans idle)]
    exact h t s' same hs
  · rw [acceptStatusRead_busy idle] at hs
    cases hs
    exact ⟨_, acceptStatusRead_busy (seq ▸ idle) body, same.map (f := raiseFault .busy) (fun _ => rfl) le_rfl⟩

/-- RREAD answers a delivered byte: a readable response is the bytes received (rules R245, R247). -/
theorem hidesStaleBytes_readResponse (inv : Inv s) (idx : Byte) : HidesStaleBytes (readResponse idx) s := by
  intro t s' same hs
  have rvalid : t.rvalid = s.rvalid := by rw [same.rest]
  have rlen : t.rlen = s.rlen := by rw [same.rest]
  obtain ⟨unreadable, h⟩ | ⟨readable, outOfRange, h⟩ | ⟨readable, inRange, b, held, h⟩ | ⟨_, _, _, h⟩ :=
    readResponse_cases idx s
  · cases h.symm.trans hs
    exact ⟨_, by simp [readResponse, rvalid, unreadable], same.map (f := raiseFault .noResponse) (fun _ => rfl) le_rfl⟩
  · cases h.symm.trans hs
    exact ⟨_, by simp [readResponse, rvalid, rlen, readable, outOfRange],
      same.map (f := raiseFault .indexRange) (fun _ => rfl) le_rfl⟩
  · cases h.symm.trans hs
    have held' : t.rbuf.read idx.toNat = some b :=
      (same.delivered _ (inv.readable readable ▸ inRange)).trans held
    exact ⟨_, by simp [readResponse, rvalid, rlen, readable, inRange, held'],
      same.map (f := respond (rspByte b)) (fun _ => rfl) le_rfl⟩
  · cases h.symm.trans hs

theorem hidesStaleBytes_ownEffect (inv : Inv s) (i : Instr) : HidesStaleBytes (ownEffect i) s := by
  cases i with
  | pload idx v =>
    refine hidesStaleBytes_apart (fun r => loadParam_withRbuf r s idx v) ?_
    obtain ⟨_, h⟩ | ⟨_, h⟩ := loadParam_cases idx v s <;> exact (congrArg (·.rxcount.toNat) h).le
  | send cmd n =>
    obtain ⟨_, _, _, _, rxcount, _⟩ := beginSend_frame cmd n s
    exact hidesStaleBytes_apart (fun r => beginSend_withRbuf r s cmd n) (congrArg BitVec.toNat rxcount).le
  | recv len =>
    have none : (beginRecv len s).rxcount = 0 := by
      obtain ⟨_, h⟩ | ⟨_, h⟩ := beginRecv_cases len s <;> rw [h] <;> rfl
    refine hidesStaleBytes_apart (fun r => beginRecv_withRbuf r s len) ?_
    rw [none]
    exact Nat.zero_le _
  | rread idx => exact hidesStaleBytes_readResponse inv idx
  | _ => exact hidesStaleBytes_apart (fun _ => rfl) le_rfl

theorem hidesStaleBytes_exec (inv : Inv s) (i : Instr) : HidesStaleBytes (exec i) s := by
  by_cases h : i = .statusRead
  · subst h
    exact hidesStaleBytes_acceptStatusRead (hidesStaleBytes_ownEffect inv .statusRead)
  · have eq : exec i = accept (ownEffect i) := funext (exec_eq_accept h)
    rw [eq]
    exact hidesStaleBytes_accept (hidesStaleBytes_ownEffect inv i)

theorem hidesStaleBytes_takeCommand (inv : Inv s) (w : Word) : HidesStaleBytes (takeCommand w) s := by
  unfold takeCommand
  split
  · exact hidesStaleBytes_exec inv _
  · exact hidesStaleBytes_accept (hidesStaleBytes_apart (fun _ => rfl) le_rfl)

theorem hidesStaleBytes_takeInput (inv : Inv s) (i : Input) : HidesStaleBytes (takeInput i) s := by
  cases i with
  | command w => exact hidesStaleBytes_takeCommand inv w
  | txAck ok =>
    obtain ⟨_, _, _, _, rxcount, _⟩ := takeTxAck_frame ok s
    exact hidesStaleBytes_apart (fun r => takeTxAck_withRbuf r s ok) (congrArg BitVec.toNat rxcount).le
  | rxByte b => exact hidesStaleBytes_next fun _ same => same.takeRxByte b
  | rxTimeout =>
    refine hidesStaleBytes_apart (fun r => takeRxTimeout_withRbuf r s) ?_
    obtain h | ⟨_, _, _, h⟩ := takeRxTimeout_cases s <;> exact (congrArg (·.rxcount.toNat) h).le
  | reset => exact hidesStaleBytes_next fun _ same => same.applyReset

end

theorem SameButStaleBytes.setInputs {s t : State} (same : SameButStaleBytes s t) (is : List Input) :
    SameButStaleBytes { s with inputs := is } { t with inputs := is } :=
  same.map (f := fun s => { s with inputs := is }) (fun _ => rfl) le_rfl

/-- Settles O16: a step waits on both sides, or takes the same input on both, which shows no stale byte. -/
theorem staleResponseBytesNeverShow : Obligations.StaleResponseBytesNeverShow := by
  unfold Obligations.StaleResponseBytesNeverShow
  intro s t s' inv same hstep
  have cfg : t.cfg = s.cfg := by rw [same.rest]
  have inputs : t.inputs = s.inputs := by rw [same.rest]
  obtain ⟨hw, ⟨hin, rfl⟩ | ⟨i, rest, hin, htake⟩⟩ := step_cases hstep
  · exact ⟨t, step_nil (cfg ▸ hw) (inputs.trans hin), same⟩
  · rw [step_cons (cfg ▸ hw) (inputs.trans hin)]
    exact hidesStaleBytes_takeInput (inv.setInputs rest) i _ _ (same.setInputs rest) htake

end Sys2Proof.Machine
end

section
/-! Waiting, dropped events and reset (rules R75, R309, R330, R331), and what every transition does to the parameters, the
wire and a SEND in progress (rules R8, R43, R83, R92). -/

namespace Sys2Proof.Machine

theorem run_nil {s : State} (hw : s.cfg.wf = true) (hin : s.inputs = []) (n : Nat) : run n s = .next s := by
  induction n with
  | zero => rfl
  | succ n ih => rw [run_succ (step_nil hw hin), ih]

/-- Settles O10: a step with no input leaves the state as it is, and so does any number of them. -/
theorem waitsWithoutInput : Obligations.WaitsWithoutInput := fun _ n hw hin => run_nil hw hin n

/-- A transport event nothing waits for changes nothing (log 4). -/
theorem takeInput_unawaited {s : State} {i : Input} (h : awaited s i = false) : takeInput i s = .next s := by
  cases i with
  | command w => cases h
  | reset => cases h
  | txAck ok =>
    cases hq : s.seq with
    | tx body k pend => simp [awaited, hq] at h
    | _ => simp only [takeInput, takeTxAck, hq]
  | rxByte b =>
    cases hq : s.seq with
    | rx len =>
      have full : ¬ s.rxcount.toNat < len.toNat := by simpa [awaited, hq] using h
      simp only [takeInput, takeRxByte, hq, if_neg full]
    | _ => simp only [takeInput, takeRxByte, hq]
  | rxTimeout =>
    cases hq : s.seq with
    | rx len =>
      have full : ¬ s.rxcount.toNat < len.toNat := by simpa [awaited, hq] using h
      simp only [takeInput, takeRxTimeout, hq, if_neg full]
    | _ => simp only [takeInput, takeRxTimeout, hq]

/-- An idle CORE waits for no transport event (rule R75). -/
theorem awaited_of_idle {s : State} {ev : Input} (idle : s.seq = .idle)
    (event : (∃ ok, ev = .txAck ok) ∨ (∃ b, ev = .rxByte b) ∨ ev = .rxTimeout) : awaited s ev = false := by
  obtain ⟨_, rfl⟩ | ⟨_, rfl⟩ | rfl := event <;> simp [awaited, idle]

theorem step_unawaited {s : State} {i : Input} {rest : List Input} (hw : s.cfg.wf = true) (hin : s.inputs = i :: rest)
    (h : awaited s i = false) : step s = .next { s with inputs := rest } := by
  rw [step_cons hw hin]
  exact takeInput_unawaited h

/-- Settles O15: the step takes the event, and taking it changes nothing. -/
theorem unawaitedEventDropped : Obligations.UnawaitedEventDropped := fun _ _ _ => step_unawaited

/-- Settles O18: the state after the step is `applyReset`'s, and it is idle, so it waits for no transport event. -/
theorem resetInputRestoresEverything : Obligations.ResetInputRestoresEverything := by
  unfold Obligations.ResetInputRestoresEverything
  intro s rest hw hin
  have status : statusWord (applyReset { s with inputs := rest }) = 0x0000 := statusWord_eq_zero rfl rfl rfl
  have unwritten : ∀ i, pvalid (applyReset { s with inputs := rest }) i = false := pvalid_of_pbuf_nil rfl
  exact ⟨applyReset { s with inputs := rest }, step_cons hw hin, rfl, rfl, rfl, status, unwritten, rfl, rfl, rfl, rfl,
    rfl, rfl, rfl, rfl, rfl, rfl, fun ev rest' hrest event => step_unawaited hw hrest (awaited_of_idle rfl event)⟩

theorem Transition.cfg_eq {s t : State} {i : Input} (h : Transition s i t) : t.cfg = s.cfg := by
  cases h <;> rfl

/-- Settles O14: no transition writes the parameters. -/
theorem parametersNeverChange : Obligations.ParametersNeverChange := by
  unfold Obligations.ParametersNeverChange
  intro s t hstep
  obtain ⟨_, rfl⟩ | ⟨i, rest, _, htrans⟩ := step_transition hstep
  · rfl
  · exact htrans.cfg_eq

/-- A transition adds acknowledged bytes to the wire, or none (rule R83). -/
theorem Transition.wire_prefix {s t : State} {i : Input} (h : Transition s i t) : s.wire <+: t.wire := by
  cases h with
  | pairAcked => exact List.prefix_append _ _
  | sendDone => exact List.prefix_append _ _
  | itemAcked => exact List.prefix_append _ _
  | _ => exact List.prefix_rfl

/-- Settles O42: only the three transitions of an acknowledged write touch the wire, and they append. -/
theorem wireIsNeverRetracted : Obligations.WireIsNeverRetracted := by
  unfold Obligations.WireIsNeverRetracted
  intro s t hstep
  obtain ⟨_, rfl⟩ | ⟨i, rest, _, htrans⟩ := step_transition hstep
  · exact List.prefix_rfl
  · exact htrans.wire_prefix

/-- A transition from a SEND in progress to a SEND in progress. -/
theorem Transition.sending_cases {s t : State} {i : Input} {body body' more pend' : List Byte} {k k' : Nat} {w : Byte}
    (h : Transition s i t) (hs : s.seq = .tx body k (w :: more)) (ht : t.seq = .tx body' k' pend') :
    body' = body ∧ (k' = k ∨ k' = k + 1) ∧ t.pbuf = s.pbuf ∧
      (t.wire = s.wire ∨ (t.wire = s.wire ++ [w] ∧ i = .txAck true)) := by
  cases h with
  | ignored =>
    cases hs.symm.trans ht
    exact ⟨rfl, .inl rfl, rfl, .inl rfl⟩
  | dropped =>
    cases hs.symm.trans ht
    exact ⟨rfl, .inl rfl, rfl, .inl rfl⟩
  | pairAcked _ _ _ _ _ hq =>
    cases hs.symm.trans hq
    cases ht
    exact ⟨rfl, .inl rfl, rfl, .inr ⟨rfl, rfl⟩⟩
  | itemAcked _ _ _ _ _ hq =>
    cases hs.symm.trans hq
    cases ht
    exact ⟨rfl, .inr rfl, rfl, .inr ⟨rfl, rfl⟩⟩
  | answered _ _ _ _ _ _ _ _ _ _ idle => exact nomatch hs.symm.trans idle
  | sendStarted _ _ _ _ idle => exact nomatch hs.symm.trans idle
  | byteStored _ _ hq => exact nomatch hs.symm.trans hq
  | _ => cases ht

/-- Settles O41: a transition keeps the SEND where it is, or is an acknowledgement of its outstanding byte. -/
theorem sendInProgressStep : Obligations.SendInProgressStep := by
  unfold Obligations.SendInProgressStep
  intro s t body body' k k' w more pend' hstep hs ht
  obtain ⟨_, rfl⟩ | ⟨i, rest, hin, htrans⟩ := step_transition hstep
  · cases hs.symm.trans ht
    exact ⟨rfl, .inl rfl, rfl, .inl rfl⟩
  · rw [hin, List.head?_cons, Option.some_inj]
    exact htrans.sending_cases hs ht

end Sys2Proof.Machine
end

section
/-! Faults (rules R293 to R301): how the faulted state is entered and why, what a busy and a faulted CORE do with a command
word, and STATUS_READ, which a faulted CORE still serves (rule R270). -/

namespace Sys2Proof.Machine

/-- Entering the faulted state is `raiseFault` on a command word, and nothing else (rule R300). -/
theorem Transition.fault_entry {s t : State} {i : Input} {c : FaultCode} (h : Transition s i t)
    (noFault : s.fault = none) (ht : t.fault = some c) : t = raiseFault c s := by
  cases h with
  | faulted w code =>
    cases ht
    rfl
  | reset => cases ht
  | _ => exact nomatch noFault.symm.trans ht

/-- Settles O55: a step that enters the faulted state is no wait, and its one transition is `raiseFault`. -/
theorem faultEntryIsPrecise : Obligations.FaultEntryIsPrecise := by
  unfold Obligations.FaultEntryIsPrecise
  intro s t c noFault hstep ht
  obtain ⟨_, rfl⟩ | ⟨i, rest, hin, htrans⟩ := step_transition hstep
  · exact nomatch noFault.symm.trans ht
  · rw [htrans.fault_entry noFault ht, hin]
    rfl

/-- What rule R293 says of the command word `w` that raises each fault in state `s`. -/
def FaultCause (s : State) (w : Word) : FaultCode → Prop
  | .busy => s.seq ≠ .idle
  | .illegalOpcode => ∀ o, fieldOp w ≠ opcodeByte o
  | .reservedNonzero => ∃ o, fieldOp w = opcodeByte o ∧
      ((usesA o = false ∧ fieldA w ≠ 0) ∨ (usesB o = false ∧ fieldB w ≠ 0) ∨ (usesC o = false ∧ fieldC w ≠ 0))
  | .indexRange => (fieldOp w = 0x30 ∧ 254 ≤ (fieldA w).toNat) ∨ (fieldOp w = 0x41 ∧ s.rlen.toNat ≤ (fieldA w).toNat)
  | .unwrittenParam => fieldOp w = 0x31 ∧ ∃ j < (fieldB w).toNat, pvalid s j = false
  | .noResponse => fieldOp w = 0x41 ∧ s.rvalid = false

/-- A must-be-0 field is not zero, said field by field. -/
theorem reservedZero_eq_false {o : Opcode} {w : Word} (h : reservedZero o w = false) :
    (usesA o = false ∧ fieldA w ≠ 0) ∨ (usesB o = false ∧ fieldB w ≠ 0) ∨ (usesC o = false ∧ fieldC w ≠ 0) := by
  by_contra none
  simp only [not_or, not_and, not_not] at none
  exact absurd (reservedZero_iff.mpr none) (by simp [h])

section
variable {s t : State} {w : Word} {c : FaultCode}

/-- The cause of a fault that a word which selects no command raises (rule R296, cases 3 and 4). -/
theorem faultCause_of_decode_error {e : DecodeError} (hd : decode w = .error e) : FaultCause s w (decodeFault e) := by
  cases e with
  | illegalOpcode => exact decode_eq_illegal.mp hd
  | reservedNonzero =>
    obtain ⟨o, hop, hr⟩ := decode_eq_reserved.mp hd
    exact ⟨o, hop, reservedZero_eq_false hr⟩

/-- The cause of a fault in a command's own effect: only PLOAD, SEND and RREAD have one. -/
theorem faultCause_of_ownEffect {i : Instr} (noFault : s.fault = none) (hd : decode w = .ok i)
    (own : ownEffect i s = .next t) (ht : t.fault = some c) : FaultCause s w c := by
  obtain rfl := encode_of_decode hd
  cases i with
  | pload idx v =>
    cases own
    obtain ⟨_, h⟩ | ⟨outOfRange, h⟩ := loadParam_cases idx v s <;> rw [h] at ht
    · exact nomatch noFault.symm.trans ht
    · cases ht
      exact .inl ⟨fieldOp_packWord _ _ _ _, by simpa [encode] using outOfRange⟩
  | send cmd n =>
    cases own
    obtain ⟨_, h⟩ | ⟨_, unwritten, h⟩ | ⟨_, _, h⟩ := beginSend_cases cmd n s <;> rw [h] at ht
    · exact nomatch noFault.symm.trans ht
    · cases ht
      exact ⟨fieldOp_packWord _ _ _ _, by simpa [encode] using unwritten⟩
    · exact nomatch noFault.symm.trans ht
  | recv len =>
    cases own
    obtain ⟨_, h⟩ | ⟨_, h⟩ := beginRecv_cases len s <;> rw [h] at ht <;> exact nomatch noFault.symm.trans ht
  | rread idx =>
    obtain ⟨unreadable, h⟩ | ⟨_, outOfRange, h⟩ | ⟨_, _, _, _, h⟩ | ⟨_, _, _, h⟩ := readResponse_cases idx s <;>
      cases h.symm.trans own
    · cases ht
      exact ⟨fieldOp_packWord _ _ _ _, unreadable⟩
    · cases ht
      exact .inr ⟨fieldOp_packWord _ _ _ _, by simpa [encode] using outOfRange⟩
    · exact nomatch noFault.symm.trans ht
  | _ =>
    cases own
    exact nomatch noFault.symm.trans ht

theorem faultCause_of_takeCommand (noFault : s.fault = none) (h : takeCommand w s = .next t)
    (ht : t.fault = some c) : FaultCause s w c := by
  obtain ⟨i, hd, h⟩ | ⟨e, hd, h⟩ := takeCommand_cases h
  · obtain ⟨_, faulted, _⟩ | ⟨_, busy, h⟩ | ⟨_, _, own⟩ := exec_cases h.symm
    · exact absurd noFault faulted
    · cases h
      cases ht
      exact busy
    · exact faultCause_of_ownEffect noFault hd own.symm ht
  · obtain ⟨faulted, _⟩ | ⟨_, busy, h⟩ | ⟨_, h⟩ := accept_cases h.symm
    · exact absurd noFault faulted
    · cases h
      cases ht
      exact busy
    · cases h
      cases ht
      exact faultCause_of_decode_error hd

/-- No transport event and no reset enters the faulted state. -/
theorem takeInput_fault_entry {i : Input} (noFault : s.fault = none) (h : takeInput i s = .next t)
    (ht : t.fault = some c) : ∃ w, i = .command w ∧ FaultCause s w c := by
  cases takeInput_transition h with
  | ignored w => exact ⟨w, rfl, faultCause_of_takeCommand noFault h ht⟩
  | faulted w => exact ⟨w, rfl, faultCause_of_takeCommand noFault h ht⟩
  | reset => cases ht
  | _ => exact nomatch noFault.symm.trans ht

end

/-- Settles O56: the step's input is a command word with the fault's cause. -/
theorem faultCauses : Obligations.FaultCauses := by
  unfold Obligations.FaultCauses
  intro s t c noFault hstep ht
  obtain ⟨_, ⟨_, rfl⟩ | ⟨i, rest, hin, htake⟩⟩ := step_cases hstep
  · exact nomatch noFault.symm.trans ht
  · obtain ⟨w, rfl, cause⟩ := takeInput_fault_entry (s := { s with inputs := rest }) noFault htake ht
    have head : s.inputs.head? = some (.command w) := by rw [hin, List.head?_cons]
    refine ⟨w, head, ?_, ?_, ?_, ?_, ?_, ?_⟩
    all_goals
      rintro rfl
      exact cause

theorem exec_busy {s : State} (noFault : s.fault = none) (busy : s.seq ≠ .idle) (i : Instr) :
    exec i s = .next (raiseFault .busy s) := by
  obtain ⟨_, faulted, _⟩ | ⟨_, _, h⟩ | ⟨_, idle, _⟩ := exec_cases (i := i) (s := s) rfl
  · exact absurd noFault faulted
  · exact h
  · exact absurd idle busy

theorem takeCommand_busy {s : State} (noFault : s.fault = none) (busy : s.seq ≠ .idle) (w : Word) :
    takeCommand w s = .next (raiseFault .busy s) := by
  obtain ⟨i, _, h⟩ | ⟨e, _, h⟩ := takeCommand_cases (w := w) (s := s) rfl
  · rw [h, exec_busy noFault busy]
  · rw [h, accept_busy noFault busy]

/-- Settles O52: whatever the word decodes to, check 2 of rule R296 comes first. -/
theorem commandWhileBusyFaults : Obligations.CommandWhileBusyFaults := by
  unfold Obligations.CommandWhileBusyFaults
  intro s w rest hw hin noFault busy
  rw [step_cons hw hin]
  exact takeCommand_busy (s := { s with inputs := rest }) noFault busy w

/-- STATUS with no exchange in progress (rules R34, R36). -/
theorem statusWord_idle {s : State} (idle : s.seq = .idle) :
    statusWord s = faultField s.fault ++ 0#5 ++ resultBits s.result := by
  have gap : faultField s.fault ++ BitVec.ofBool false ++ 0#4 = faultField s.fault ++ 0#5 := by
    apply BitVec.eq_of_toNat_eq
    simp only [toNat_append_eq_add, BitVec.toNat_ofBool, Bool.toNat_false, BitVec.toNat_ofNat, Nat.zero_mod]
    omega
  rw [statusWord, idle]
  exact congrArg (· ++ resultBits s.result) gap

/-- STATUS_READ's answer with no exchange in progress: STATUS zero-extended (rule R126). -/
theorem rspStatus_idle {s : State} (idle : s.seq = .idle) :
    rspStatus (statusWord s) = 0#16 ++ faultField s.fault ++ 0#5 ++ resultBits s.result := by
  rw [rspStatus_eq, statusWord_idle idle]
  apply BitVec.eq_of_toNat_eq
  simp only [toNat_append_eq_add, BitVec.toNat_ofNat, Nat.zero_mod]
  omega

theorem exec_statusRead_idle {s : State} (idle : s.seq = .idle) :
    exec .statusRead s = .next
      { s with outputs := s.outputs ++ [.rsp (0#16 ++ faultField s.fault ++ 0#5 ++ resultBits s.result)] } := by
  rw [exec_statusRead, acceptStatusRead_idle idle, ownEffect, rspStatus_idle idle]
  rfl

/-- Settles O50: check 1 of rule R296 lets STATUS_READ through, and no exchange is in progress. -/
theorem statusReadEffect : Obligations.StatusReadEffect := fun _ => exec_statusRead_idle

/-- In the faulted state every word but STATUS_READ's is ignored (rule R301). -/
theorem takeCommand_faulted {s : State} {w : Word} (faulted : s.fault ≠ none) (notStatus : w ≠ encode .statusRead) :
    takeCommand w s = .next (ignoreCommand s) := by
  obtain ⟨i, hd, h⟩ | ⟨e, _, h⟩ := takeCommand_cases (w := w) (s := s) rfl
  · have hi : i ≠ .statusRead := by
      rintro rfl
      exact notStatus (encode_of_decode hd).symm
    rw [h, exec_eq_accept hi, accept_faulted faulted]
  · rw [h, accept_faulted faulted]

/-- Settles O53: a command word other than STATUS_READ's is ignored, STATUS_READ answers STATUS, and an idle CORE waits for
no transport event. -/
theorem faultedStateIsQuiescent : Obligations.FaultedStateIsQuiescent := by
  unfold Obligations.FaultedStateIsQuiescent
  intro s i rest hw faulted idle hin
  refine ⟨?ignored, ?served, fun event => step_unawaited hw hin (awaited_of_idle idle event)⟩
  case ignored =>
    rintro w rfl notStatus
    rw [step_cons hw hin]
    exact takeCommand_faulted (s := { s with inputs := rest }) faulted notStatus
  case served =>
    rintro rfl
    rw [stepRunsDecodedCommand s _ rest .statusRead hw hin (decode_encode .statusRead)]
    exact exec_statusRead_idle (s := { s with inputs := rest }) idle

end Sys2Proof.Machine
end

section
/-! Answers and results (rules R35, R120, R127): the response words a step adds, when a command or an exchange is answered,
and what writes `RESULT`. -/

namespace Sys2Proof.Machine

@[simp] theorem responses_append (os os' : List Output) : responses (os ++ os') = responses os ++ responses os' := by
  simp [responses]

@[simp] theorem responses_rsp (w : Word) : responses [.rsp w] = [w] := rfl

@[simp] theorem responses_map_txWrite (ws : List Byte) : responses (ws.map .txWrite) = [] := by
  simp [responses, List.filterMap_map]

theorem rsp_mem_iff_mem_responses {w : Word} {os : List Output} : Output.rsp w ∈ os ↔ w ∈ responses os := by
  induction os with
  | nil => simp [responses]
  | cons o os ih => cases o <;> simp_all [responses]

/-- Rule R127 for the outputs `new` added on the way to `t`. -/
def UnambiguousAnswers (t : State) (new : List Output) : Prop :=
  ∀ w, Output.rsp w ∈ new → (w = 0xFFFFFFFF ∧ t.fault ≠ none) ∨ (w.extractLsb' 24 8).toNat ≤ 2

section
variable {t : State}

theorem unambiguousAnswers_fault (faulted : t.fault ≠ none) : UnambiguousAnswers t [.rsp rspFault] := by
  intro w hw
  cases List.mem_singleton.mp hw
  exact .inl ⟨rfl, faulted⟩

theorem unambiguousAnswers_answer {r : Word} (small : (r.extractLsb' 24 8).toNat ≤ 2) :
    UnambiguousAnswers t [.rsp r] := by
  intro w hw
  cases List.mem_singleton.mp hw
  exact .inr small

theorem unambiguousAnswers_sendDone (r : ResultCode) : UnambiguousAnswers t [.rsp (rspSend r)] :=
  unambiguousAnswers_answer (by rw [topByte_rspSend]; decide)

theorem unambiguousAnswers_recvDone (count : Byte) (r : ResultCode) : UnambiguousAnswers t [.rsp (rspRecv count r)] :=
  unambiguousAnswers_answer (by rw [topByte_rspRecv]; decide)

theorem unambiguousAnswers_silent {new : List Output} (silent : responses new = []) : UnambiguousAnswers t new := by
  intro w hw
  rw [rsp_mem_iff_mem_responses, silent] at hw
  exact absurd hw List.not_mem_nil

end

/-- What a transition adds to the outputs. -/
theorem Transition.outputs_cases {s t : State} {i : Input} (h : Transition s i t) :
    ∃ new, t.outputs = s.outputs ++ new ∧ UnambiguousAnswers t new := by
  cases h with
  | ignored w faulted => exact ⟨_, rfl, unambiguousAnswers_fault faulted⟩
  | faulted w code => exact ⟨_, rfl, unambiguousAnswers_fault (Option.some_ne_none code)⟩
  | answered w i r c e p ms _ _ _ _ _ small => exact ⟨_, rfl, unambiguousAnswers_answer small⟩
  | sendRejected => exact ⟨_, rfl, unambiguousAnswers_sendDone _⟩
  | writeFailed => exact ⟨_, rfl, unambiguousAnswers_sendDone _⟩
  | sendDone => exact ⟨_, rfl, unambiguousAnswers_sendDone _⟩
  | recvEmpty => exact ⟨_, rfl, unambiguousAnswers_recvDone _ _⟩
  | recvDone => exact ⟨_, rfl, unambiguousAnswers_recvDone _ _⟩
  | recvTimedOut => exact ⟨_, rfl, unambiguousAnswers_recvDone _ _⟩
  | sendStarted => exact ⟨_, rfl, unambiguousAnswers_silent rfl⟩
  | recvStarted => exact ⟨_, rfl, unambiguousAnswers_silent rfl⟩
  | pairAcked => exact ⟨_, rfl, unambiguousAnswers_silent (responses_map_txWrite _)⟩
  | itemAcked => exact ⟨_, rfl, unambiguousAnswers_silent (responses_map_txWrite _)⟩
  | dropped => exact ⟨[], (List.append_nil _).symm, unambiguousAnswers_silent rfl⟩
  | byteStored => exact ⟨[], (List.append_nil _).symm, unambiguousAnswers_silent rfl⟩
  | reset => exact ⟨[], (List.append_nil _).symm, unambiguousAnswers_silent rfl⟩

/-- Settles O57: a step that waits adds nothing, and a transition adds unambiguous answers. -/
theorem faultAnswerIsUnambiguous : Obligations.FaultAnswerIsUnambiguous := by
  unfold Obligations.FaultAnswerIsUnambiguous
  intro s t hstep
  obtain ⟨_, rfl⟩ | ⟨i, rest, _, htrans⟩ := step_transition hstep
  · exact ⟨[], (List.append_nil _).symm, unambiguousAnswers_silent rfl⟩
  · exact htrans.outputs_cases

/-- From `s` to `t` one response word is added and nothing is left in progress (rule R120). -/
def AnsweredOnce (s t : State) : Prop := t.seq = .idle ∧ ∃ w, responses t.outputs = responses s.outputs ++ [w]

/-- From `s` to `t` nothing is answered, and an exchange is in progress in `t` (rule R120). -/
def AwaitsAnswer (s t : State) : Prop := t.seq ≠ .idle ∧ responses t.outputs = responses s.outputs

section
variable {s t : State}

theorem AnsweredOnce.of_outputs {w : Word} (idle : t.seq = .idle) (h : t.outputs = s.outputs ++ [.rsp w]) :
    AnsweredOnce s t := ⟨idle, w, by rw [h, responses_append, responses_rsp]⟩

theorem AwaitsAnswer.of_outputs {new : List Output} (busy : t.seq ≠ .idle) (h : t.outputs = s.outputs ++ new)
    (silent : responses new = []) : AwaitsAnswer s t :=
  ⟨busy, by rw [h, responses_append, silent, List.append_nil]⟩

theorem beginSend_answers (cmd n : Byte) (s : State) :
    AnsweredOnce s (beginSend cmd n s) ∨ AwaitsAnswer s (beginSend cmd n s) := by
  obtain ⟨_, h⟩ | ⟨_, _, h⟩ | ⟨_, _, h⟩ := beginSend_cases cmd n s <;> rw [h]
  · exact .inl (.of_outputs rfl rfl)
  · exact .inl (.of_outputs rfl rfl)
  · exact .inr (.of_outputs nofun rfl rfl)

theorem beginRecv_answers (len : Byte) (s : State) :
    AnsweredOnce s (beginRecv len s) ∨ AwaitsAnswer s (beginRecv len s) := by
  obtain ⟨_, h⟩ | ⟨_, h⟩ := beginRecv_cases len s <;> rw [h]
  · exact .inl (.of_outputs rfl rfl)
  · exact .inr (.of_outputs nofun rfl rfl)

/-- The own effect of a command that starts no exchange is an answer. -/
theorem ownEffect_answers {i : Instr} (idle : s.seq = .idle) (own : ownEffect i s = .next t)
    (notSend : ∀ cmd n, i ≠ .send cmd n) (notRecv : ∀ len, i ≠ .recv len) : AnsweredOnce s t := by
  obtain ⟨_, code, rfl⟩ | ⟨r, c, e, p, ms, rfl, _⟩ := ownEffect_cases own notSend notRecv
  · exact .of_outputs rfl rfl
  · exact .of_outputs idle rfl

/-- A transport event ends the exchange it is for with one answer, or leaves it in progress with none. -/
theorem Transition.event_answers {i : Input} (h : Transition s i t) (busy : s.seq ≠ .idle)
    (event : (∃ ok, i = .txAck ok) ∨ (∃ b, i = .rxByte b) ∨ i = .rxTimeout) : AnsweredOnce s t ∨ AwaitsAnswer s t := by
  cases h with
  | dropped => exact .inr ⟨busy, rfl⟩
  | writeFailed => exact .inl (.of_outputs rfl rfl)
  | pairAcked => exact .inr (.of_outputs nofun rfl (responses_map_txWrite _))
  | sendDone => exact .inl (.of_outputs rfl rfl)
  | itemAcked => exact .inr (.of_outputs nofun rfl (responses_map_txWrite _))
  | byteStored => exact .inr ⟨busy, rfl⟩
  | recvDone => exact .inl (.of_outputs rfl rfl)
  | recvTimedOut => exact .inl (.of_outputs rfl rfl)
  | _ => simp at event

end

/-- Settles O58: a command that starts no exchange answers; SEND and RECV answer or start one; and each transport event
answers or leaves the exchange in progress. -/
theorem oneResponsePerCommand : Obligations.OneResponsePerCommand := by
  unfold Obligations.OneResponsePerCommand
  refine ⟨fun s t i ready h => ?command, fun s t i busy event h => (takeInput_transition h).event_answers busy event⟩
  rw [exec_ready ready] at h
  cases i with
  | send cmd n =>
    cases h
    exact (beginSend_answers cmd n s).imp_right fun ⟨busy, silent⟩ => ⟨busy, .inl ⟨cmd, n, rfl⟩, silent⟩
  | recv len =>
    cases h
    exact (beginRecv_answers len s).imp_right fun ⟨busy, silent⟩ => ⟨busy, .inr ⟨len, rfl⟩, silent⟩
  | _ => exact .inl (ownEffect_answers ready.idle h nofun nofun)

theorem classify_ne_none (c : Config) (len : Byte) (r : List Byte) : classify c len r ≠ .none := by
  unfold classify
  split
  · nofun
  · split <;> nofun

/-- Only reset writes `NONE`: every completion writes another result. -/
theorem Transition.result_none {s t : State} {i : Input} (h : Transition s i t) (ht : t.result = .none) :
    s.result = .none ∨ i = .reset := by
  cases h with
  | sendRejected => cases ht
  | recvEmpty => cases ht
  | writeFailed => cases ht
  | sendDone => cases ht
  | recvDone => exact absurd ht (classify_ne_none _ _ _)
  | recvTimedOut => cases ht
  | reset => exact .inr rfl
  | _ => exact .inl ht

/-- Settles O59: no effect of another command has a result in it, and every completion's result is not `NONE`. -/
theorem onlyExchangesWriteResult : Obligations.OnlyExchangesWriteResult := by
  unfold Obligations.OnlyExchangesWriteResult
  refine ⟨fun s t i notSend notRecv h => ?_, fun s t hstep ht => ?_⟩
  · obtain rfl | ⟨_, rfl⟩ | own := exec_eq_next h
    · rfl
    · rfl
    · obtain ⟨_, code, rfl⟩ | ⟨r, c, e, p, ms, rfl, _⟩ := ownEffect_cases own notSend notRecv <;> rfl
  · obtain ⟨_, rfl⟩ | ⟨i, rest, hin, htrans⟩ := step_transition hstep
    · exact .inl ht
    · rw [hin, List.head?_cons, Option.some_inj]
      exact htrans.result_none ht

theorem exec_recv_empty {s : State} (hr : Ready s) :
    exec (.recv 0) s = .next
      { s with rvalid := true, rlen := 0, rxcount := 0, result := .ok, outputs := s.outputs ++ [.rsp 0x00000001] } := by
  have answer : rspRecv 0#8 .ok = 1#32 := by decide
  rw [exec_ready hr, ownEffect, beginRecv, if_pos rfl, hr.idle]
  simp [completeRecv, respond, emit, answer]

theorem exec_recv_started {s : State} {len : Byte} (hr : Ready s) (nonempty : len ≠ 0) :
    exec (.recv len) s = .next
      { s with rvalid := false, rxcount := 0, seq := .rx len,
               outputs := s.outputs ++ [.rxRequest len s.timeout] } := by
  rw [exec_ready hr, ownEffect, beginRecv, if_neg nonempty]
  rfl

/-- Settles O43: RECV's own effect is `beginRecv`, whose two cases are the two clauses. -/
theorem recvAcceptance : Obligations.RecvAcceptance := by
  unfold Obligations.RecvAcceptance
  refine fun s len hr => ⟨?_, exec_recv_started hr⟩
  rintro rfl
  exact exec_recv_empty hr

end Sys2Proof.Machine
end

section
/-! The host's operations (rules R15 to R18): the FRAME of each, its follow-up and its outcome. -/

namespace Sys2Proof.Machine

section
variable {c : CommandBytes} {op : HostOp}

theorem hostFrame_of_le (fits : (hostTriple c op).2.1.length ≤ 254) :
    hostFrame c op = some (frameCommands (hostTriple c op).1 (hostTriple c op).2.1) := if_pos fits

theorem hostFrame_of_gt (long : 254 < (hostTriple c op).2.1.length) : hostFrame c op = none :=
  if_neg (Nat.not_le.mpr long)

theorem hostFrame_eq_some {is : List Instr} (h : hostFrame c op = some is) :
    ∃ cmd ps, is = frameCommands cmd ps ∧ ps.length ≤ 254 := by
  unfold hostFrame at h
  split at h
  · next fits =>
    cases h
    exact ⟨_, _, rfl, fits⟩
  · cases h

/-- The response each operation expects: none for factory reset, 12 bytes for the version, 6 for any other. -/
theorem hostTriple_expected (c : CommandBytes) (op : HostOp) :
    (hostTriple c op).2.2 = if op = .factoryReset then none else some (if op = .version then 12 else 6) := by
  cases op <;> simp [hostTriple]

theorem hostFollowUp_eq (c : CommandBytes) (op : HostOp) (r : ResultCode) :
    hostFollowUp c op r =
      if r = .ok ∧ op ≠ .factoryReset then [.recv (if op = .version then 12 else 6)] else [] := by
  unfold hostFollowUp
  rw [hostTriple_expected]
  by_cases none : op = .factoryReset
  · simp [none]
  · simp [none, exchangeTail]

theorem hostOutcome_rejected (rejected : hostFrame c op = none) (sent received : ResultCode) :
    hostOutcome c op sent received = .paramInvalid := by
  simp only [hostOutcome, rejected]

theorem hostOutcome_issued (issued : hostFrame c op ≠ none) (sent received : ResultCode) :
    hostOutcome c op sent received = if hostFollowUp c op sent = [] then sent else received := by
  obtain ⟨is, h⟩ := Option.ne_none_iff_exists'.mp issued
  simp only [hostOutcome, h]

theorem hostOutcome_sendFailed (issued : hostFrame c op ≠ none) {sent : ResultCode} (failed : sent ≠ .ok)
    (received : ResultCode) : hostOutcome c op sent received = sent := by
  simp [hostOutcome_issued issued, hostFollowUp_eq, failed]

theorem hostOutcome_sent (issued : hostFrame c op ≠ none) (received : ResultCode) :
    hostOutcome c op .ok received = if op = .factoryReset then .ok else received := by
  rw [hostOutcome_issued issued, hostFollowUp_eq]
  by_cases none : op = .factoryReset <;> simp [none]

end

/-- Settles O60: an operation's own entry in `hostTriple` gives its FRAME, and the three laws of the follow-up and the
outcome hold for every operation. -/
theorem hostOperationsFit : Obligations.HostOperationsFit := by
  unfold Obligations.HostOperationsFit
  intro c
  refine ⟨?version, ?text, ?longText, ?speed, ?pattern, ?frames, ?mode, ?reset, fun op => ?laws⟩
  case version => exact hostFrame_of_le (Nat.zero_le _)
  case text => exact fun text fits => ⟨hostFrame_of_le fits, hostFrame_of_le fits⟩
  case longText => exact fun text long => ⟨hostFrame_of_gt long, hostFrame_of_gt long⟩
  case speed => exact fun speed => hostFrame_of_le (by simp [hostTriple])
  case pattern => exact fun rows => hostFrame_of_le (by simp [hostTriple])
  case frames =>
    exact fun rows delay => ⟨hostFrame_of_le (by simp [hostTriple]), hostFrame_of_le (by simp [hostTriple])⟩
  case mode => exact hostFrame_of_le (Nat.zero_le _)
  case reset => exact hostFrame_of_le (Nat.zero_le _)
  case laws =>
    refine ⟨fun _ => hostFrame_eq_some, ?none, ?expected, hostFollowUp_eq c op, hostOutcome_rejected,
      fun issued => ⟨fun _ received failed => hostOutcome_sendFailed issued failed received, hostOutcome_sent issued⟩⟩
    case none => simp [hostTriple_expected]
    case expected =>
      intro len h
      rw [hostTriple_expected] at h
      split at h
      · cases h
      · exact (Option.some.inj h).symm

end Sys2Proof.Machine
end

section
/-! The checksum (rules R150, R151, R155): the two forms of its update agree, and CRC_BLOCK computes it. -/

namespace Sys2Proof.Machine

/-- The value rule R150's loop tests: the state's top bit against the shifted byte's. -/
theorem crcStep_top (c : Crc) (x : Byte) :
    (c &&& 0x8000#16) ^^^ ((x &&& 0x80#8).setWidth 16 <<< 8) =
      if c.getLsbD 15 ^^ x.getLsbD 7 then 0x8000#16 else 0x0000#16 := by
  have top : c &&& 0x8000#16 = if c.getLsbD 15 then 0x8000#16 else 0#16 := BitVec.and_twoPow c 15
  have bit : x &&& 0x80#8 = if x.getLsbD 7 then 0x80#8 else 0#8 := BitVec.and_twoPow x 7
  rw [top, bit]
  cases c.getLsbD 15 <;> cases x.getLsbD 7 <;> decide

/-- A turn of rule R150's loop, with `i` turns done, is the turn of rule R151's on bit `7 - i` of the original byte. -/
theorem crcStep_shifted (c : Crc) (b : Byte) {i : Nat} (hi : i ≤ 7) :
    crcStep (c, b <<< i) = (crcBit b c (7 - i), b <<< (i + 1)) := by
  have bit : (b <<< i).getLsbD 7 = b.getLsbD (7 - i) := by
    rw [BitVec.getLsbD_shiftLeft]
    simp [Nat.not_lt.mpr hi]
  have shifted : b <<< i <<< 1 = b <<< (i + 1) := (BitVec.shiftLeft_add b i 1).symm
  simp only [crcStep, crcStep_top, bit, shifted, crcBit]
  cases c.getLsbD 15 ^^ b.getLsbD (7 - i) <;> simp

/-- The last `k` turns of the loop take the byte's bits `k - 1` down to 0. -/
theorem crcSteps_shifted (b : Byte) {k i : Nat} (hk : k + i = 8) (c : Crc) :
    (crcSteps k (c, b <<< i)).1 = (List.range k).reverse.foldl (crcBit b) c := by
  induction k generalizing i c with
  | zero => rfl
  | succ k ih =>
    rw [crcSteps, crcStep_shifted c b (by omega), ih (by omega), List.range_succ, List.reverse_append,
      show 7 - i = k by omega]
    rfl

theorem crcUpdate_eq_byBits (c : Crc) (b : Byte) : crcUpdate c b = crcUpdateByBits c b := by
  have steps := crcSteps_shifted b (k := 8) (i := 0) rfl c
  rw [BitVec.shiftLeft_zero] at steps
  exact steps

/-- Settles O21: turn by turn, the shifted byte's top bit is the original byte's bit of that turn. -/
theorem crcFormsAgree : Obligations.CrcFormsAgree := fun c b =>
  ⟨crcUpdate_eq_byBits c b, (crcUpdate_eq_byBits c b).symm⟩

/-- A command's own word, given to a CORE that accepts commands, runs the command. -/
theorem step_encoded {s : State} {i : Instr} {is : List Input} (hw : s.cfg.wf = true)
    (hin : s.inputs = .command (encode i) :: is) : step s = exec i { s with inputs := is } :=
  stepRunsDecodedCommand s (encode i) is i hw hin (decode_encode i)

theorem commandInputs_append (is is' : List Instr) :
    commandInputs (is ++ is') = commandInputs is ++ commandInputs is' := List.map_append

/-- The answers of CRC_INIT and of one CRC_UPDATE for each of the bytes `bs` (rules R152, R153). -/
def blockAnswers (bs : List Byte) : List Output :=
  .rsp 0 :: (List.range bs.length).map fun j => .rsp (0#16 ++ crc16 (bs.take (j + 1)))

theorem blockAnswers_append_singleton (bs : List Byte) (b : Byte) :
    blockAnswers (bs ++ [b]) = blockAnswers bs ++ [.rsp (0#16 ++ crcUpdate (crc16 bs) b)] := by
  have earlier : ∀ j ∈ List.range bs.length, (Output.rsp (0#16 ++ crc16 ((bs ++ [b]).take (j + 1)))) =
      .rsp (0#16 ++ crc16 (bs.take (j + 1))) := by
    intro j hj
    rw [List.take_append_of_le_length (List.mem_range.mp hj)]
  have last : crc16 ((bs ++ [b]).take (bs.length + 1)) = crcUpdate (crc16 bs) b := by
    rw [List.take_of_length_le (by simp), crc16_append_singleton]
  rw [blockAnswers, List.length_append, List.length_singleton, List.range_succ, List.map_append,
    List.map_congr_left earlier]
  simp [blockAnswers, last]

/-- The state of a CRC_BLOCK begun in `s`, after the bytes `bs`; `is` is what comes in next. -/
def blockAt (s : State) (bs : List Byte) (is : List Input) : State :=
  { s with crc := crc16 bs, inputs := is, outputs := s.outputs ++ blockAnswers bs }

section
variable {s : State}

theorem step_crcInit {is : List Input} (hr : Ready s) (hw : s.cfg.wf = true)
    (hin : s.inputs = .command (encode .crcInit) :: is) : step s = .next (blockAt s [] is) := by
  rw [step_encoded hw hin]
  exact exec_crcInit_ready (s := { s with inputs := is }) ⟨hr.noFault, hr.idle⟩

theorem step_blockAt (hr : Ready s) (hw : s.cfg.wf = true) (bs : List Byte) (b : Byte) (is : List Input) :
    step (blockAt s bs (.command (encode (.crcUpdate b)) :: is)) = .next (blockAt s (bs ++ [b]) is) := by
  have ready : Ready (blockAt s bs is) := ⟨hr.noFault, hr.idle⟩
  rw [step_encoded (s := blockAt s bs (.command (encode (.crcUpdate b)) :: is)) hw rfl]
  refine (exec_crcUpdate_ready ready b).trans ?_
  simp only [blockAt, blockAnswers_append_singleton, crc16_append_singleton, List.append_assoc]

theorem run_blockAt (hr : Ready s) (hw : s.cfg.wf = true) (bs : List Byte) (is : List Input) :
    run bs.length (blockAt s [] (commandInputs (bs.map .crcUpdate) ++ is)) = .next (blockAt s bs is) := by
  induction bs using List.reverseRecOn generalizing is with
  | nil => rfl
  | append_singleton bs b ih =>
    have before := ih (.command (encode (.crcUpdate b)) :: is)
    rw [List.map_append, commandInputs_append, List.append_assoc, List.length_append]
    exact (run_add before 1).trans (run_one (step_blockAt hr hw bs b is))

/-- The step of CRC_READ, which ends the block. -/
theorem step_blockAt_crcRead (hr : Ready s) (hw : s.cfg.wf = true) (bs : List Byte) (is : List Input) :
    step (blockAt s bs (.command (encode .crcRead) :: is)) =
      .next { s with
        crc := crc16 bs
        inputs := is
        outputs := s.outputs ++ (blockAnswers bs ++ [.rsp (0#16 ++ crc16 bs)]) } := by
  have ready : Ready (blockAt s bs is) := ⟨hr.noFault, hr.idle⟩
  rw [step_encoded (s := blockAt s bs (.command (encode .crcRead) :: is)) hw rfl, ← List.append_assoc]
  exact exec_crcRead_ready ready

end

/-- Settles O22: CRC_INIT, one CRC_UPDATE for each byte, and CRC_READ. -/
theorem crcBlockAnswersChecksum : Obligations.CrcBlockAnswersChecksum := by
  unfold Obligations.CrcBlockAnswersChecksum
  intro s bs rest hr hw hin
  have updates := run_blockAt hr hw bs (.command (encode .crcRead) :: rest)
  have program : s.inputs = .command (encode .crcInit) ::
      (commandInputs (bs.map .crcUpdate) ++ .command (encode .crcRead) :: rest) := by
    rw [hin]
    simp [commandInputs, crcBlock]
  rw [run_succ (step_crcInit hr hw program), run_add updates, run_one (step_blockAt_crcRead hr hw bs rest)]
  rfl

end Sys2Proof.Machine
end

section
/-! Stuffed sequences (rules R170, R172, R173, R178, R179): their shape, and their bytes given to UNSTUFF one command
each. -/

namespace Sys2Proof.Machine

/-- In a stuffed sequence each marker of the original takes one byte more. -/
theorem stuffSeq_length (c : Config) (bs : List Byte) :
    (stuffSeq c bs).length = bs.length + bs.countP (fun b => b = c.stx ∨ b = c.esc) := by
  induction bs with
  | nil => rfl
  | cons b bs ih =>
    rw [stuffSeq_cons, List.length_append, stuff_length, ih, List.length_cons, List.countP_cons]
    simp only [decide_eq_true_eq]
    omega

/-- In a stuffed sequence `ESC` is followed by a marker's escaped form. -/
theorem esc_followed {c : Config} (hw : c.wf = true) {bs : List Byte} {j : Nat} (h : (stuffSeq c bs)[j]? = some c.esc) :
    (stuffSeq c bs)[j + 1]? = some (c.stx ||| 0x80) ∨ (stuffSeq c bs)[j + 1]? = some (c.esc ||| 0x80) := by
  obtain ⟨-, -, stxEscaped_esc, -, escEscaped_esc, -⟩ := markers_distinct hw
  induction bs generalizing j with
  | nil => simp at h
  | cons b bs ih =>
    by_cases marker : b = c.stx ∨ b = c.esc
    · rw [stuffSeq_cons, stuff_marker marker] at h ⊢
      match j with
      | 0 =>
        obtain rfl | rfl := marker
        · exact .inl rfl
        · exact .inr rfl
      | 1 =>
        obtain rfl | rfl := marker
        · exact absurd (Option.some.inj h) stxEscaped_esc
        · exact absurd (Option.some.inj h) escEscaped_esc
      | j + 2 => exact ih h
    · rw [stuffSeq_cons, stuff_plain marker] at h ⊢
      match j with
      | 0 => exact absurd (.inr (Option.some.inj h)) marker
      | j + 1 => exact ih h

/-- Settles O25: the three properties, each by the recursion of `stuffSeq`. -/
theorem stuffedSequenceShape : Obligations.StuffedSequenceShape := fun c bs hw =>
  ⟨stx_not_mem_stuffSeq hw bs, fun _ => esc_followed hw, stuffSeq_length c bs⟩

/-- Settles O26: each logical byte's wire bytes are unstuffed to it, with no escape left pending. -/
theorem unstuffOfStuff : Obligations.UnstuffOfStuff := fun _ bs hw => unstuffSeq_stuffSeq hw bs

theorem kind_rspEvent (ev : UnstuffEvent) : (rspEvent ev).extractLsb' 8 8 = eventKind ev :=
  fieldB_packWord 0#8 0#8 (eventKind ev) (eventValue ev)

theorem value_rspEvent (ev : UnstuffEvent) : (rspEvent ev).extractLsb' 0 8 = eventValue ev :=
  fieldC_packWord 0#8 0#8 (eventKind ev) (eventValue ev)

/-- The UNSTUFF answers `ws` are of kind DATA or PENDING, and their data are `bs` (rule R123). -/
def Spells (ws : List Word) (bs : List Byte) : Prop :=
  dataValues ws = bs ∧ ∀ w ∈ ws, w.extractLsb' 8 8 = 0#8 ∨ w.extractLsb' 8 8 = 1#8

theorem Spells.append {ws ws' : List Word} {bs bs' : List Byte} (h : Spells ws bs) (h' : Spells ws' bs') :
    Spells (ws ++ ws') (bs ++ bs') := by
  obtain ⟨data, kinds⟩ := h
  obtain ⟨data', kinds'⟩ := h'
  refine ⟨?_, fun w hw => (List.mem_append.mp hw).elim (kinds w) (kinds' w)⟩
  rw [← data, ← data']
  exact List.filterMap_append

theorem spells_data (b : Byte) : Spells [rspEvent (.data b)] [b] := by
  have kind : (rspEvent (.data b)).extractLsb' 8 8 = 0#8 := kind_rspEvent _
  have value : (rspEvent (.data b)).extractLsb' 0 8 = b := value_rspEvent _
  exact ⟨by simp [dataValues, kind, value], by simp [kind]⟩

theorem spells_pending : Spells [rspEvent .pending] [] := by
  have kind : (rspEvent .pending).extractLsb' 8 8 = 1#8 := kind_rspEvent _
  exact ⟨by simp [dataValues, kind], by simp [kind]⟩

/-- After `ESC`, a marker's escaped form is the marker (rule R176). -/
theorem unstuffStep_escaped {c : Config} (hw : c.wf = true) {b : Byte} (marker : b = c.stx ∨ b = c.esc) :
    unstuffStep c true (b ||| 0x80) = (false, .data b) := by
  obtain ⟨-, stxEscaped_stx, -, escEscaped_stx, -, escaped_escaped⟩ := markers_distinct hw
  obtain rfl | rfl := marker
  · exact unstuffStep_escapedStx stxEscaped_stx escaped_escaped rfl
  · exact unstuffStep_escapedEsc escEscaped_stx rfl

section
variable {s : State}

theorem step_unstuff {w : Byte} {q p : Bool} {ev : UnstuffEvent} {is : List Input} (hr : Ready s)
    (hw : s.cfg.wf = true) (pending : s.escp = q) (event : unstuffStep s.cfg q w = (p, ev))
    (hin : s.inputs = .command (encode (.unstuff w)) :: is) :
    step s = .next { s with escp := p, inputs := is, outputs := s.outputs ++ [.rsp (rspEvent ev)] } := by
  rw [step_encoded hw hin]
  exact exec_unstuff_ready (s := { s with inputs := is }) ⟨hr.noFault, hr.idle⟩ pending event rfl

/-- The wire bytes of one logical byte given to UNSTUFF answer that byte. -/
theorem run_unstuff_stuff (hr : Ready s) (hw : s.cfg.wf = true) (noPending : s.escp = false) (b : Byte)
    {is : List Input} (hin : s.inputs = commandInputs ((stuff s.cfg b).map .unstuff) ++ is) :
    ∃ ws, ws.length = (stuff s.cfg b).length ∧ Spells ws [b] ∧
      run (stuff s.cfg b).length s = .next { s with inputs := is, outputs := s.outputs ++ ws.map .rsp } := by
  obtain ⟨stx_esc, -⟩ := markers_distinct hw
  by_cases marker : b = s.cfg.stx ∨ b = s.cfg.esc
  · rw [stuff_marker marker] at hin ⊢
    refine ⟨[rspEvent .pending, rspEvent (.data b)], rfl, spells_pending.append (spells_data b), ?_⟩
    have first := step_unstuff hr hw noPending (unstuffStep_esc stx_esc.symm rfl) hin
    have second := step_unstuff (s := { s with
      escp := true
      inputs := .command (encode (.unstuff (b ||| 0x80))) :: is
      outputs := s.outputs ++ [.rsp (rspEvent .pending)] })
      ⟨hr.noFault, hr.idle⟩ hw rfl (unstuffStep_escaped hw marker) rfl
    exact (run_succ first 1).trans ((run_one second).trans (by simp [noPending]))
  · obtain ⟨notStx, notEsc⟩ := not_or.mp marker
    rw [stuff_plain marker] at hin ⊢
    refine ⟨[rspEvent (.data b)], rfl, spells_data b, run_one ?_⟩
    rw [step_unstuff hr hw noPending (unstuffStep_plain notStx notEsc) hin, noPending]
    rfl

theorem run_unstuff_stuffSeq (hr : Ready s) (hw : s.cfg.wf = true) (noPending : s.escp = false) (bs : List Byte)
    {is : List Input} (hin : s.inputs = commandInputs ((stuffSeq s.cfg bs).map .unstuff) ++ is) :
    ∃ ws, ws.length = (stuffSeq s.cfg bs).length ∧ Spells ws bs ∧
      run (stuffSeq s.cfg bs).length s = .next { s with inputs := is, outputs := s.outputs ++ ws.map .rsp } := by
  induction bs generalizing s with
  | nil => exact ⟨[], rfl, ⟨rfl, nofun⟩, by simp [← hin.trans (List.nil_append is)]⟩
  | cons b bs ih =>
    rw [stuffSeq_cons, List.map_append, commandInputs_append, List.append_assoc] at hin
    obtain ⟨ws, len, spells, first⟩ := run_unstuff_stuff hr hw noPending b hin
    obtain ⟨ws', len', spells', others⟩ := ih (s := { s with
      inputs := commandInputs ((stuffSeq s.cfg bs).map .unstuff) ++ is
      outputs := s.outputs ++ ws.map .rsp }) ⟨hr.noFault, hr.idle⟩ hw noPending rfl
    refine ⟨ws ++ ws', by simp [len, len'], spells.append spells', ?_⟩
    rw [stuffSeq_cons, List.length_append, run_add first, others]
    simp

end

/-- Settles O28: logical byte by logical byte, the answers spell the original sequence. -/
theorem unstuffCommandsRecoverBytes : Obligations.UnstuffCommandsRecoverBytes := by
  unfold Obligations.UnstuffCommandsRecoverBytes
  intro s bs rest hr hw noPending hin
  obtain ⟨ws, len, ⟨data, kinds⟩, done⟩ := run_unstuff_stuffSeq hr hw noPending bs hin
  exact ⟨ws, done, len, data, kinds⟩

end Sys2Proof.Machine
end

section
/-! Whole exchanges (rules R85, R131, R209 to R222, R310): a FRAME from its PLOADs on, a SEND cut short, the same SEND
twice, a frame's length and what it determines, and the end of a RECV in progress. -/

namespace Sys2Proof.Machine

section
variable {s : State} {cmd : Byte} {ps : List Byte}

/-- The PLOADs of a longer parameter list: those of its beginning, then one for each further parameter. -/
theorem loadParams_append (i : Nat) (ps ps' : List Byte) :
    loadParams i (ps ++ ps') = loadParams i ps ++ loadParams (i + ps.length) ps' := by
  induction ps generalizing i with
  | nil => rfl
  | cons p ps ih => simp [loadParams, ih, Nat.add_assoc, Nat.add_comm 1]

/-- The state of a FRAME begun in `s`, after the PLOADs of the parameters `ps`; `is` is what comes in next. -/
def loadedAt (s : State) (ps : List Byte) (is : List Input) : State :=
  { s with
    pbuf := s.pbuf.writeFront ps
    inputs := is
    outputs := s.outputs ++ List.replicate ps.length (.rsp 0) }

theorem eq_loadedAt_nil {is : List Input} (hin : s.inputs = is) : s = loadedAt s [] is := by
  simp [loadedAt, ← hin]

theorem step_loadedAt (hr : Ready s) (hw : s.cfg.wf = true) (bound : ps.length < 254) (p : Byte) (is : List Input) :
    step (loadedAt s ps (.command (encode (.pload (BitVec.ofNat 8 ps.length) p)) :: is)) =
      .next (loadedAt s (ps ++ [p]) is) := by
  have ready : Ready (loadedAt s ps is) := ⟨hr.noFault, hr.idle⟩
  have idx : (BitVec.ofNat 8 ps.length).toNat = ps.length := by
    rw [BitVec.toNat_ofNat]
    omega
  rw [step_encoded (s := loadedAt s ps (.command (encode (.pload (BitVec.ofNat 8 ps.length) p)) :: is)) hw rfl]
  refine (exec_pload_inRange p ready (by rw [idx]; exact bound)).trans ?_
  simp [loadedAt, idx, Memory.writeFront_append_singleton, List.replicate_succ']

theorem run_loadedAt (hr : Ready s) (hw : s.cfg.wf = true) (bound : ps.length ≤ 254) (is : List Input) :
    run ps.length (loadedAt s [] (commandInputs (loadParams 0 ps) ++ is)) = .next (loadedAt s ps is) := by
  induction ps using List.reverseRecOn generalizing is with
  | nil => rfl
  | append_singleton ps p ih =>
    have within : ps.length < 254 := by simpa [Nat.succ_le_iff] using bound
    have before := ih within.le (.command (encode (.pload (BitVec.ofNat 8 ps.length) p)) :: is)
    rw [loadParams_append, Nat.zero_add, commandInputs_append, List.append_assoc, List.length_append]
    exact (run_add before 1).trans (run_one (step_loadedAt hr hw within p is))

end

/-- Settles O35: the PLOADs leave the parameters in `PBUF`, and then the SEND puts the frame on the wire (O34). -/
theorem frameCommandsPutFrameOnWire : Obligations.FrameCommandsPutFrameOnWire := by
  unfold Obligations.FrameCommandsPutFrameOnWire
  intro s cmd ps rest hr hw bound hin
  rw [frameCommands, commandInputs_append, List.append_assoc] at hin
  generalize hsend : commandInputs [.send cmd (BitVec.ofNat 8 ps.length)] ++
    (List.replicate (frameWire s.cfg cmd ps).length (.txAck true) ++ rest) = sendInputs at hin
  have loaded := run_loadedAt hr hw bound sendInputs
  rw [← eq_loadedAt_nil hin] at loaded
  have sent := sendPutsFrameOnWire (loadedAt s ps sendInputs) cmd ps rest ⟨hr.noFault, hr.idle⟩ hw bound
    (fun _ => Memory.read_writeFront_of_lt s.pbuf) hsend.symm
  rw [← run_add loaded, ← Nat.add_assoc] at sent
  refine ⟨_, sent, rfl, rfl, ⟨hr.noFault, hr.idle⟩, rfl, ?answers⟩
  case answers => simp [loadedAt, responses]

/-- Settles O36: the acknowledgements bring the SEND to byte `r` of item `k`, and the failed write ends it there. -/
theorem failedSendKeepsPartialChecksum : Obligations.FailedSendKeepsPartialChecksum := by
  unfold Obligations.FailedSendKeepsPartialChecksum
  intro s cmd ps rest k r body sent hr hw bound held hk hlt hin
  have accepted := step_send hr hw bound held hin
  have acked := ackRun_sendingAt (body := body) hw hk hlt (.txAck false :: rest)
  have failed := step_txAck_false (s := sendingAt s body k r (.txAck false :: rest)) hw rfl rfl
  refine ⟨_, (run_succ accepted (sent.length + 1)).trans ((run_add acked 1).trans (run_one failed)), rfl, rfl, rfl,
    ?checksum, rfl, rfl, hr.noFault⟩
  case checksum => exact congrArg crc16 List.take_eq_take_min

/-- Settles O37: O34 twice, the second time from the state in which the first SEND ended. -/
theorem sameSendSameBytes : Obligations.SameSendSameBytes := by
  unfold Obligations.SameSendSameBytes
  intro s cmd ps rest once hr hw bound held hin
  have first := sendPutsFrameOnWire s cmd ps (once ++ rest) hr hw bound held (by simpa [once] using hin)
  have second := sendPutsFrameOnWire { s with
    crc := crc16 (frameBody cmd ps)
    result := .ok
    inputs := once ++ rest
    outputs := s.outputs ++ (frameWire s.cfg cmd ps).map .txWrite ++ [.rsp 0x00000001]
    wire := s.wire ++ frameWire s.cfg cmd ps } cmd ps rest ⟨hr.noFault, hr.idle⟩ hw bound held rfl
  have length : 2 * once.length = (1 + (frameWire s.cfg cmd ps).length) + (1 + (frameWire s.cfg cmd ps).length) := by
    simp only [once, List.length_cons, List.length_replicate]
    omega
  rw [length, run_add first]
  exact ⟨_, second, rfl⟩

/-- The logical bytes of a frame after `STX`: the body, then the checksum, high byte first (rules R76, R210). -/
def frameLogical (cmd : Byte) (ps : List Byte) : List Byte :=
  frameBody cmd ps ++ [crcHi (crc16 (frameBody cmd ps)), crcLo (crc16 (frameBody cmd ps))]

theorem frameLogical_length (cmd : Byte) (ps : List Byte) : (frameLogical cmd ps).length = ps.length + 5 := by
  simp [frameLogical]

theorem frameWire_eq_logical (c : Config) (cmd : Byte) (ps : List Byte) :
    frameWire c cmd ps = c.stx :: stuffSeq c (frameLogical cmd ps) := frameWire_eq_stx_cons c cmd ps

/-- A frame is `STX` and, for each logical byte after it, one byte or two (rules R170, R210). -/
theorem frameWire_length (c : Config) (cmd : Byte) (ps : List Byte) :
    (frameWire c cmd ps).length = ps.length + 6 + (frameLogical cmd ps).countP (fun b => b = c.stx ∨ b = c.esc) := by
  rw [frameWire_eq_logical, List.length_cons, stuffSeq_length, frameLogical_length]
  omega

/-- Settles O39: between none and all of the `n + 5` logical bytes after `STX` are markers. -/
theorem frameWireLength : Obligations.FrameWireLength := by
  unfold Obligations.FrameWireLength
  intro c cmd ps body logical n
  have wire : (frameWire c cmd ps).length = n + 6 + logical.countP (fun b => b = c.stx ∨ b = c.esc) :=
    frameWire_length c cmd ps
  have length : logical.length = n + 5 := frameLogical_length cmd ps
  have atMost : logical.countP (fun b => b = c.stx ∨ b = c.esc) ≤ logical.length := List.countP_le_length
  have none : (logical.countP fun b => b = c.stx ∨ b = c.esc) = 0 ↔ ∀ b ∈ logical, b ≠ c.stx ∧ b ≠ c.esc := by
    simp only [List.countP_eq_zero, decide_eq_true_eq, not_or, ne_eq]
  have all : (logical.countP fun b => b = c.stx ∨ b = c.esc) = logical.length ↔
      ∀ b ∈ logical, b = c.stx ∨ b = c.esc := by
    simp only [List.countP_eq_length, decide_eq_true_eq]
  refine ⟨by omega, by omega, ?_, ?_⟩
  · rw [← none]
    omega
  · rw [← all]
    omega

/-- Settles O40: unstuffing what follows `STX` gives the body and the two checksum bytes back, and the body its command
byte and parameters. -/
theorem frameDeterminesCommand : Obligations.FrameDeterminesCommand := by
  unfold Obligations.FrameDeterminesCommand
  intro c cmd cmd' ps ps' hw _ _ same
  rw [frameWire_eq_logical, frameWire_eq_logical] at same
  obtain ⟨-, sequences⟩ := List.cons.inj same
  have unstuffed := congrArg (unstuffSeq c) sequences
  rw [unstuffSeq_stuffSeq hw, unstuffSeq_stuffSeq hw] at unstuffed
  have bodies := List.append_inj_left' (Except.ok.inj unstuffed) rfl
  simp only [frameBody, List.cons.injEq, true_and] at bodies
  exact bodies.2

section
variable {s : State} {len : Byte}

/-- A byte that is wanted is stored, and ends the RECV if it is the last (rule R244). -/
theorem takeRxByte_wanted (hq : s.seq = .rx len) (wanted : s.rxcount.toNat < len.toNat) (b : Byte) :
    takeRxByte b s = finishIfFull len (storeByte b s) := by
  simp only [takeRxByte, hq, if_pos wanted]

theorem takeRxTimeout_wanted (hq : s.seq = .rx len) (wanted : s.rxcount.toNat < len.toNat) :
    takeRxTimeout s = completeRecv len .readTimeout s := by
  simp only [takeRxTimeout, hq, if_pos wanted]

/-- The step of a byte that is wanted and not the last one. -/
theorem step_rxByte_more {b : Byte} {is : List Input} (hw : s.cfg.wf = true) (hq : s.seq = .rx len)
    (more : s.rxcount.toNat + 1 < len.toNat) (hin : s.inputs = .rxByte b :: is) :
    step s = .next (storeByte b { s with inputs := is }) := by
  have wanted : s.rxcount.toNat < len.toNat := by omega
  have notFull : s.rxcount + 1 ≠ len := by
    rintro rfl
    rw [toNat_rxcount_succ wanted] at more
    omega
  have stored : finishIfFull len (storeByte b { s with inputs := is }) = storeByte b { s with inputs := is } :=
    if_neg notFull
  rw [step_cons hw hin, takeInput, takeRxByte_wanted (s := { s with inputs := is }) hq wanted, stored]

/-- The step of the last byte that is wanted. -/
theorem step_rxByte_last {b : Byte} {is : List Input} (hw : s.cfg.wf = true) (hq : s.seq = .rx len)
    (last : s.rxcount.toNat + 1 = len.toNat) (hin : s.inputs = .rxByte b :: is) :
    ∃ t, step s = .next t ∧ t.seq = .idle ∧ t.inputs = is := by
  have wanted : s.rxcount.toNat < len.toNat := by omega
  have full : s.rxcount + 1 = len := BitVec.eq_of_toNat_eq ((toNat_rxcount_succ wanted).trans last)
  have ended : (finishIfFull len (storeByte b { s with inputs := is })).seq = .idle ∧
      (finishIfFull len (storeByte b { s with inputs := is })).inputs = is := by
    rw [finishIfFull, if_pos (show (storeByte b { s with inputs := is }).rxcount = len from full)]
    exact ⟨rfl, rfl⟩
  rw [step_cons hw hin, takeInput, takeRxByte_wanted (s := { s with inputs := is }) hq wanted]
  exact ⟨_, rfl, ended⟩

/-- The step of a read timeout while bytes are wanted. -/
theorem step_rxTimeout_wanted {is : List Input} (hw : s.cfg.wf = true) (hq : s.seq = .rx len)
    (wanted : s.rxcount.toNat < len.toNat) (hin : s.inputs = .rxTimeout :: is) :
    ∃ t, step s = .next t ∧ t.seq = .idle ∧ t.inputs = is := by
  rw [step_cons hw hin, takeInput, takeRxTimeout_wanted (s := { s with inputs := is }) hq wanted]
  exact ⟨_, rfl, rfl, rfl⟩

/-- Fewer bytes than are wanted leave the RECV in progress. -/
theorem run_rxBytes_short {bs : List Byte} {is : List Input} (hw : s.cfg.wf = true) (hq : s.seq = .rx len)
    (short : s.rxcount.toNat + bs.length < len.toNat) (hin : s.inputs = bs.map .rxByte ++ is) :
    ∃ t, run bs.length s = .next t ∧ t.cfg = s.cfg ∧ t.seq = .rx len ∧
      t.rxcount.toNat = s.rxcount.toNat + bs.length ∧ t.inputs = is := by
  induction bs generalizing s with
  | nil => exact ⟨s, rfl, rfl, hq, rfl, hin⟩
  | cons b bs ih =>
    rw [List.length_cons] at short
    have first := step_rxByte_more hw hq (by omega) hin
    have count : (s.rxcount + 1).toNat = s.rxcount.toNat + 1 := toNat_rxcount_succ (len := len) (by omega)
    obtain ⟨t, others, cfg, seq, rxcount, inputs⟩ :=
      ih (s := storeByte b { s with inputs := bs.map .rxByte ++ is }) hw hq
        (by simp only [storeByte_rxcount, count]; omega) rfl
    refine ⟨t, (run_succ first _).trans others, cfg, seq, ?_, inputs⟩
    rw [rxcount, storeByte_rxcount, count, List.length_cons]
    omega

end

/-- Settles O46: the transport's duty is met by the last wanted byte or by a timeout before it; what comes earlier leaves
the RECV in progress. -/
theorem recvEnds : Obligations.RecvEnds := by
  unfold Obligations.RecvEnds
  intro s len evs rest hw hq wanted duty hin
  obtain ⟨bs, all, rfl⟩ | ⟨bs, fewer, rfl⟩ := duty
  · obtain rfl | ⟨init, b, rfl⟩ := List.eq_nil_or_concat' bs
    · rw [List.length_nil] at all
      omega
    · rw [List.length_append, List.length_singleton] at all
      rw [List.map_append, List.append_assoc] at hin
      obtain ⟨u, received, cfg, seq, rxcount, inputs⟩ := run_rxBytes_short hw hq (by omega) hin
      obtain ⟨t, ended, idle, left⟩ := step_rxByte_last (cfg ▸ hw) seq (by omega) inputs
      refine ⟨t, ?_, idle, left⟩
      rw [List.length_map, List.length_append]
      exact (run_add received 1).trans (run_one ended)
  · rw [List.append_assoc] at hin
    obtain ⟨u, received, cfg, seq, rxcount, inputs⟩ := run_rxBytes_short hw hq (by omega) hin
    obtain ⟨t, ended, idle, left⟩ := step_rxTimeout_wanted (cfg ▸ hw) seq (by omega) inputs
    refine ⟨t, ?_, idle, left⟩
    rw [List.length_append, List.length_map]
    exact (run_add received 1).trans (run_one ended)

end Sys2Proof.Machine
end
